-- ==== Sys2Proof/Word.lean ====
section
/-! DEFINITION. The word types of the hardware (R12, R13, R110). -/

namespace Sys2Proof

/-- One byte, the smallest addressable unit (R80). -/
abbrev Byte := BitVec 8

/-- One 32-bit MMIO register, or the status or control word of a TRB (R12). -/
abbrev Word := BitVec 32

/-- A guest-physical address, or the parameter of a TRB (R12). -/
abbrev Addr := BitVec 64

/-- The 16 raw bytes of a ring slot as one 128-bit value: byte k is bits 8k+7..8k (R80, R110). -/
abbrev Raw := BitVec 128

end Sys2Proof
end

