-- ==== Sys2Proof/Config.lean ====
section
/-! DEFINITION. The implementation parameters (R10, R11) and the free values: the answers of agents outside the core
that the spec leaves to a draw (R14, R36, R370, R96). A free value is an opaque constant applied to the draw counter of
State: nothing in Lean can tell what it is. -/

namespace Sys2Proof

/-- The parameters of R10. "A model takes each as a named configuration field." -/
structure Config where
  /-- MAX_SLOTS: usable slot ids are 1..maxSlots (C1). -/
  maxSlots : Nat
  /-- MAX_INTRS: interrupters and event rings 0..maxIntrs-1. -/
  maxIntrs : Nat
  /-- MAX_PORTS: root-hub ports 0..maxPorts-1. -/
  maxPorts : Nat
  /-- XHCI_VERSION, the HCIVERSION value. -/
  version : BitVec 16
  /-- NUM_EP: endpoint entries 0..numEp-1, entry 0 reserved (C2). -/
  numEp : Nat
  /-- NUM_ADDR: device addresses 1..numAddr. -/
  numAddr : Nat
  /-- CAPLENGTH, the byte offset of the Operational bank. -/
  capLength : Nat
  /-- RTSOFF, the byte offset of the Runtime bank. -/
  rtsOff : Nat
  /-- DBOFF, the byte offset of the Doorbell bank. -/
  dbOff : Nat
  /-- MMIO_SIZE, the size of the MMIO window. -/
  mmioSize : Nat
  /-- CMD_RING_SIZE (OPEN, D8). -/
  cmdRingSize : Nat
  /-- ERST_MAX_EXP, log2 of the most ERST entries. -/
  erstMaxExp : Nat
  /-- ATOMIC_TRANSFER_DRAIN (D29). -/
  atomicTransferDrain : Bool
deriving DecidableEq, Repr

/-- The column "this hardware" of R10. -/
def Config.hardware : Config where
  maxSlots := 32
  maxIntrs := 8
  maxPorts := 8
  version := 0x0100
  numEp := 32
  numAddr := 127
  capLength := 0x20
  rtsOff := 0x2000
  dbOff := 0x3000
  mmioSize := 0x4000
  cmdRingSize := 256
  erstMaxExp := 4
  atomicTransferDrain := false

/-- The constraints of R11, and what the field widths and the address map (R87, R150-R156) ask of the others: the
banks hold their registers, each base is a multiple of its alignment, and a slot's endpoint and address numbers fit
the TRB fields. DESIGN CHOICE (log 26): CAPLENGTH may be as low as 0x1C, the end of the last Capability register; what
stands at offset 0x1C then is said at Machine.regAt. -/
def Config.ok (c : Config) : Bool :=
  decide (1 ≤ c.maxSlots ∧ c.maxSlots ≤ 255) && decide (1 ≤ c.maxIntrs ∧ c.maxIntrs ≤ 1024)
    && decide (1 ≤ c.maxPorts ∧ c.maxPorts ≤ 127)
    && decide (2 ≤ c.numEp ∧ c.numEp ≤ 32) && decide (1 ≤ c.numAddr ∧ c.numAddr ≤ 127)
    && decide (c.capLength % 4 = 0 ∧ 0x1C ≤ c.capLength ∧ c.capLength ≤ 255)
    && decide (c.rtsOff % 32 = 0 ∧ c.capLength + 0x400 + 0x10 * c.maxPorts ≤ c.rtsOff)
    && decide (c.dbOff % 4 = 0 ∧ c.rtsOff + 0x20 + 0x20 * c.maxIntrs ≤ c.dbOff)
    && decide (c.dbOff + 4 * (c.maxSlots + 1) ≤ c.mmioSize ∧ c.mmioSize ≤ 2 ^ 32)
    && decide (1 ≤ c.cmdRingSize ∧ c.cmdRingSize < 2 ^ 32) && decide (c.erstMaxExp ≤ 15)

/-- `speed()` of a device capability (R47, R370). -/
inductive Speed where
  | full
  | high
  | super
deriving DecidableEq, Repr, Inhabited

/-- The answer `Result<bytes>` of `handle_control` and `handle_transfer` (R370). -/
inductive DevAnswer where
  | ok (bytes : List Byte)
  | err
deriving DecidableEq, Repr, Inhabited

/-- The 14-bit value a read of MFINDEX draws (R36, I12). -/
opaque Config.freeMfindex : Nat → BitVec 14

/-- What `speed()` answers (R370, I4). -/
opaque Config.freeSpeed : Nat → Speed

/-- What `handle_control` or `handle_transfer` answers (R370, I4). -/
opaque Config.freeDevAnswer : Nat → DevAnswer

/-- Whether the memory collaborator answers an access with MemFault (R96, D49, I5). -/
opaque Config.freeMemFault : Nat → Bool

end Sys2Proof
end

