-- ==== Sys2Proof/Syntax.lean ====
section
/-! DEFINITION. The units of execution of R15, one constructor of Instr per row of spec/opcode_table.json, and what the
outside world hands to the core. -/

namespace Sys2Proof

/-- The three words of a TRB (R110, R170). Every bit is kept, the reserved ones too (R164). -/
structure Trb where
  parameter : Addr
  status : Word
  control : Word
deriving DecidableEq, Repr, Inhabited

/-- Which bytes of a 32-bit register an access reaches (R82): all four, half k (bytes 2k, 2k+1) or byte k. -/
inductive Lane where
  | full
  | half (k : Fin 2)
  | byte (k : Fin 4)
deriving DecidableEq, Repr

/-- One access to one register (R82): a read of a lane, a 32-bit write, or a 1- or 2-byte write (a no-op). -/
inductive Access where
  | read (lane : Lane)
  | write (v : Word)
  | writeNarrow (lane : Lane)
deriving DecidableEq, Repr

/-- A vCPU's MMIO access as it reaches the window (R82): byte offset, width in bytes, direction, written value. -/
structure MmioAccess where
  off : Nat
  width : Nat
  isWrite : Bool
  value : BitVec 64
deriving DecidableEq, Repr

/-- The host-interface operations of R410 that are rows of the opcode table. -/
inductive HostOp where
  | cmd (b : Raw)
  | xfer (slot ep : Nat) (b : Raw)
  | xinit (slot ep : Nat) (base : Addr) (size : Word)
  | evt (n : Nat)
  | attach (port : Nat) (dev : Nat)
  | detach (slot : Nat)
deriving DecidableEq, Repr

/-- A unit of execution before decoding: the raw bytes of a ring slot, an MMIO access, or a host operation (R15). -/
inductive Fetched where
  | trb (b : Raw)
  | access (a : MmioAccess)
  | host (op : HostOp)
deriving DecidableEq, Repr

/-- One constructor per row of spec/opcode_table.json, in the table's order. -/
inductive Instr where
  -- transfer TRBs, types 1..8 (R385-R390)
  | normal (t : Trb)
  | setupStage (t : Trb)
  | dataStage (t : Trb)
  | statusStage (t : Trb)
  | isoch (t : Trb)
  | link (t : Trb)
  | eventData (t : Trb)
  | noop (t : Trb)
  -- command TRBs, types 9..23 (R322-R345)
  | enableSlot (t : Trb)
  | disableSlot (t : Trb)
  | addressDevice (t : Trb)
  | configureEndpoint (t : Trb)
  | evaluateContext (t : Trb)
  | resetEndpoint (t : Trb)
  | stopEndpoint (t : Trb)
  | setTrDequeuePointer (t : Trb)
  | resetDevice (t : Trb)
  | forceEvent (t : Trb)
  | negotiateBandwidth (t : Trb)
  | setLatencyToleranceValue (t : Trb)
  | getPortBandwidth (t : Trb)
  | forceHeader (t : Trb)
  | noopCommand (t : Trb)
  -- event TRBs, types 32..39 (R118, R119)
  | transferEvent (t : Trb)
  | commandCompletionEvent (t : Trb)
  | portStatusChangeEvent (t : Trb)
  | bandwidthRequestEvent (t : Trb)
  | doorbellEvent (t : Trb)
  | hostControllerEvent (t : Trb)
  | deviceNotificationEvent (t : Trb)
  | mfindexWrapEvent (t : Trb)
  -- unrecognised types 0, 24..31, 40..63 (R118, R171)
  | malformedTrb (b : Raw)
  -- Capability bank (R252, R253)
  | caplengthHciversion (a : Access)
  | hcsparams1 (a : Access)
  | hcsparams2 (a : Access)
  | hcsparams3 (a : Access)
  | hccparams1 (a : Access)
  | dboff (a : Access)
  | rtsoff (a : Access)
  -- Operational bank (R260-R270)
  | usbcmd (a : Access)
  | usbsts (a : Access)
  | pagesize (a : Access)
  | dnctrl (a : Access)
  | crcrLo (a : Access)
  | crcrHi (a : Access)
  | dcbaapLo (a : Access)
  | dcbaapHi (a : Access)
  | config (a : Access)
  -- port registers (R271-R274)
  | portsc (p : Nat) (a : Access)
  | portpmsc (p : Nat) (a : Access)
  | portliPorthlpmc (p : Nat) (hlpmc : Bool) (a : Access)
  -- Runtime bank (R280-R285)
  | mfindex (a : Access)
  | iman (n : Nat) (a : Access)
  | imod (n : Nat) (a : Access)
  | erstsz (n : Nat) (a : Access)
  | erstbaLo (n : Nat) (a : Access)
  | erstbaHi (n : Nat) (a : Access)
  | erdpLo (n : Nat) (a : Access)
  | erdpHi (n : Nat) (a : Access)
  -- Doorbell bank (R290, R291)
  | db (i : Nat) (a : Access)
  -- an access that names no register (R84, R250)
  | outOfRange (a : MmioAccess)
  -- host interface (R203, R232, R230, R224, R400, R403)
  | cmd (b : Raw)
  | xfer (slot ep : Nat) (b : Raw)
  | xinit (slot ep : Nat) (base : Addr) (size : Word)
  | evt (n : Nat)
  | attach (port : Nat) (dev : Nat)
  | detach (slot : Nat)
deriving DecidableEq, Repr

end Sys2Proof
end

