-- ==== Sys2Proof/Machine/Bits.lean ====
section
/-! DEFINITION. Bit fields, bit writes and little-endian bytes (R13, R80). -/

namespace Sys2Proof.Machine

/-- `v[lo+len-1:lo]` (R13). -/
def field {n : Nat} (v : BitVec n) (lo len : Nat) : BitVec len := v.extractLsb' lo len

/-- `v[lo+len-1:lo] <- x`, every other bit unchanged (R86, R174-R179). -/
def setField {n len : Nat} (v : BitVec n) (lo : Nat) (x : BitVec len) : BitVec n :=
  (v &&& ~~~((BitVec.allOnes len).setWidth n <<< lo)) ||| (x.setWidth n <<< lo)

/-- `v[i]` as a Bool (R13). -/
def bit {n : Nat} (v : BitVec n) (i : Nat) : Bool := v.getLsbD i

/-- `b << i` in a 32-bit register read value (R260-R281). -/
def flag (b : Bool) (i : Nat) : Word := (BitVec.ofBool b).setWidth 32 <<< i

/-- The little-endian bytes of a value: byte k is bits 8k+7..8k (R80). -/
def leBytes {n : Nat} (v : BitVec n) (count : Nat) : List Byte :=
  (List.range count).map (fun k => field v (8 * k) 8)

/-- The number whose little-endian bytes these are (R80, R81). -/
def leNat : List Byte → Nat
  | [] => 0
  | b :: bs => b.toNat + 256 * leNat bs

/-- A 64-bit pointer register that stores only bits 63:6, as one address (R160, R161, R163). -/
def ptr6 (p : BitVec 58) : Addr := p ++ (0#6)

/-- A 64-bit pointer register that stores only bits 63:4, as one address (R163). -/
def ptr4 (p : BitVec 60) : Addr := p ++ (0#4)

/-- Write bits 31:6 of a pointer whose stored bits are 63:6, from a 32-bit low half (R83, R268, R270, R283). -/
def setPtr6Lo (p : BitVec 58) (v : Word) : BitVec 58 := (field p 26 32 ++ field v 6 26 : BitVec (32 + 26))

/-- Write bits 63:32 of a pointer whose stored bits are 63:6 (R83). -/
def setPtr6Hi (p : BitVec 58) (v : Word) : BitVec 58 := (v ++ field p 0 26 : BitVec (32 + 26))

/-- Write bits 31:4 of a pointer whose stored bits are 63:4 (R285). -/
def setPtr4Lo (p : BitVec 60) (v : Word) : BitVec 60 := (field p 28 32 ++ field v 4 28 : BitVec (32 + 28))

/-- Write bits 63:32 of a pointer whose stored bits are 63:4 (R285). -/
def setPtr4Hi (p : BitVec 60) (v : Word) : BitVec 60 := (v ++ field p 0 28 : BitVec (32 + 28))

/-- The low half of a 64-bit value (R83). -/
def lo32 (a : Addr) : Word := field a 0 32

/-- The high half of a 64-bit value (R83). -/
def hi32 (a : Addr) : Word := field a 32 32

end Sys2Proof.Machine
end

