-- ==== Sys2Proof/Machine/Codec.lean ====
section
/-! DEFINITION. The TRB codec (R170-R181): pure functions of a TRB or of 16 raw bytes. -/

namespace Sys2Proof.Machine

/-- The parameter word of 16 raw bytes: bytes 0..7 (R110). -/
def rawParameter (b : Raw) : Addr := field b 0 64

/-- The status word of 16 raw bytes: bytes 8..11 (R110). -/
def rawStatus (b : Raw) : Word := field b 64 32

/-- The control word of 16 raw bytes: bytes 12..15 (R110). -/
def rawControl (b : Raw) : Word := field b 96 32

/-- The three words of 16 raw bytes, whatever their type (R110). -/
def rawWords (b : Raw) : Trb := ⟨rawParameter b, rawStatus b, rawControl b⟩

/-- `trb_type(t) = t.control[15:10]` (R111, R174). -/
def trbType (t : Trb) : BitVec 6 := field t.control 10 6

/-- The recognised types: 1..23 and 32..39 (R118, R170). -/
def recognised (ty : BitVec 6) : Bool :=
  (decide (1 ≤ ty.toNat) && decide (ty.toNat ≤ 23)) || (decide (32 ≤ ty.toNat) && decide (ty.toNat ≤ 39))

/-- A representable TRB (R170). -/
def Trb.representable (t : Trb) : Bool := recognised (trbType t)

/-- The verdict `MalformedTrb` (R171). -/
inductive CodecError where
  | malformedTrb
deriving DecidableEq, Repr

/-- `decode(b)` (R166, R171): total on every 16 bytes; rejects exactly the unrecognised types. -/
def decodeTrb (b : Raw) : Except CodecError Trb :=
  if recognised (trbType (rawWords b)) then .ok (rawWords b) else .error .malformedTrb

/-- `encode(t)` (R172). -/
def encodeTrb (t : Trb) : Raw := (t.control ++ t.status ++ t.parameter : BitVec (32 + 32 + 64))

/-- The 16 bytes of a slot in address order (R80). -/
def rawBytes (b : Raw) : List Byte := leBytes b 16

/-- The slot value of 16 bytes in address order (R80). -/
def rawOfBytes (bs : List Byte) : Raw := BitVec.ofNat 128 (leNat (bs.take 16))

/-- `set_type(t, v)`: the verdict `Rejected` (none) for an unrecognised value, and the TRB is unchanged (R174, I8). -/
def setType (t : Trb) (v : BitVec 6) : Option Trb :=
  if recognised v then some { t with control := setField t.control 10 v } else none

/-- `cycle(t) = t.control[0]` (R175). -/
def cycle (t : Trb) : Bool := bit t.control 0

/-- A control word with bit 0 set to c (R175). -/
def controlWithCycle (w : Word) (c : Bool) : Word := setField w 0 (BitVec.ofBool c)

/-- `set_cycle(t, c)` (R175). -/
def setCycle (t : Trb) (c : Bool) : Trb := { t with control := controlWithCycle t.control c }

/-- The cycle bit of a raw slot, byte 12 bit 0 (R44). -/
def rawCycle (b : Raw) : Bool := bit (rawControl b) 0

/-- `b.control[0] <- c` on raw bytes (R203). -/
def rawSetCycle (b : Raw) (c : Bool) : Raw := encodeTrb (setCycle (rawWords b) c)

/-- `completion_code(t) = t.status[31:24]` (R176). -/
def completionCode (t : Trb) : BitVec 8 := field t.status 24 8

/-- `set_completion_code(t, cc)` (R176). -/
def setCompletionCode (t : Trb) (cc : BitVec 8) : Trb := { t with status := setField t.status 24 cc }

/-- `chain(t) = t.control[4]` (R177). -/
def chain (t : Trb) : Bool := bit t.control 4

/-- `ioc(t) = t.control[5]` (R177). -/
def ioc (t : Trb) : Bool := bit t.control 5

/-- `idt(t) = t.control[6]` (R177). -/
def idt (t : Trb) : Bool := bit t.control 6

/-- The setter of the chain flag (R177). -/
def setChain (t : Trb) (v : Bool) : Trb := { t with control := setField t.control 4 (BitVec.ofBool v) }

/-- The setter of the IOC flag (R177). -/
def setIoc (t : Trb) (v : Bool) : Trb := { t with control := setField t.control 5 (BitVec.ofBool v) }

/-- The setter of the immediate-data flag (R177). -/
def setIdt (t : Trb) (v : Bool) : Trb := { t with control := setField t.control 6 (BitVec.ofBool v) }

/-- `last(t) = 1 - chain(t)` (R178, C6). -/
def last (t : Trb) : Bool := !chain t

/-- `set_last(t, v) = set_chain(t, 1 - v)` (R178). -/
def setLast (t : Trb) (v : Bool) : Trb := setChain t (!v)

/-- `transfer_length(t) = t.status[16:0]` (R179). -/
def transferLength (t : Trb) : BitVec 17 := field t.status 0 17

/-- `set_transfer_length(t, n)`: the low 17 bits of n; `status[31:17]` unchanged (R179). -/
def setTransferLength (t : Trb) (n : Word) : Trb := { t with status := setField t.status 0 (field n 0 17) }

/-- `slot_id(t) = t.control[31:24]` (R180). -/
def slotId (t : Trb) : BitVec 8 := field t.control 24 8

/-- `endpoint_id(t) = t.control[20:16]` (R180). -/
def endpointId (t : Trb) : BitVec 5 := field t.control 16 5

/-- `event_length(t) = t.status[23:0]` (R180). -/
def eventLength (t : Trb) : BitVec 24 := field t.status 0 24

/-- DIR of a Data Stage TRB, `control[16]`, 1 = IN (R387). -/
def dirIn (t : Trb) : Bool := bit t.control 16

/-- `status = {code, x}`: code in 31:24, the event parameter in 23:0 (R114). -/
def eventStatus (code : BitVec 8) (x : BitVec 24) : Word := (code ++ x : BitVec (8 + 24))

/-- `create_completion_event(cmd_addr, slot_id, code, extra)` (R117, R214). -/
def createCompletionEvent (cmdAddr : Addr) (slot : BitVec 8) (code : BitVec 8) (extra : BitVec 24) : Trb where
  parameter := cmdAddr
  status := eventStatus code extra
  control := (slot ++ 0#8 ++ 33#6 ++ 0#9 ++ 0#1 : BitVec (8 + 8 + 6 + 9 + 1))

/-- `create_transfer_event(trb_addr, code, residual, slot_id, ep_id)` (R117, R240). -/
def createTransferEvent (trbAddr : Addr) (code : BitVec 8) (residual : BitVec 24) (slot : BitVec 8) (ep : BitVec 5) :
    Trb where
  parameter := trbAddr
  status := eventStatus code residual
  control := (slot ++ 0#3 ++ ep ++ 32#6 ++ 0#9 ++ 0#1 : BitVec (8 + 3 + 5 + 6 + 9 + 1))

/-- The Port Status Change Event of port p: Port ID p+1 in parameter[31:24], code Success (R117, R402). -/
def createPortStatusChangeEvent (p : Nat) : Trb where
  parameter := BitVec.ofNat 64 (p + 1) <<< 24
  status := 1#32 <<< 24
  control := 34#32 <<< 10

end Sys2Proof.Machine
end

