-- ==== Sys2Proof/Machine/MmioMap.lean ====
section
/-! DEFINITION. The MMIO address map (R87, R250) and the access widths of R82. -/

namespace Sys2Proof.Machine

/-- The 32-bit registers of the MMIO window. -/
inductive Reg where
  | caplengthHciversion | hcsparams1 | hcsparams2 | hcsparams3 | hccparams1 | dboff | rtsoff
  | usbcmd | usbsts | pagesize | dnctrl | crcrLo | crcrHi | dcbaapLo | dcbaapHi | config
  | portsc (p : Nat) | portpmsc (p : Nat) | portli (p : Nat) | porthlpmc (p : Nat)
  | mfindex
  | iman (n : Nat) | imod (n : Nat) | erstsz (n : Nat) | erstbaLo (n : Nat) | erstbaHi (n : Nat)
  | erdpLo (n : Nat) | erdpHi (n : Nat)
  | db (i : Nat)
deriving DecidableEq, Repr

/-- The register at a Capability-bank offset (R33, R252): 0x1C and the rest are holes. -/
def capRegAt (r : Nat) : Option Reg :=
  if r = 0x00 then some .caplengthHciversion
  else if r = 0x04 then some .hcsparams1
  else if r = 0x08 then some .hcsparams2
  else if r = 0x0C then some .hcsparams3
  else if r = 0x10 then some .hccparams1
  else if r = 0x14 then some .dboff
  else if r = 0x18 then some .rtsoff
  else none

/-- The register of port p at offset q of its set (R35). -/
def portRegAt (p q : Nat) : Option Reg :=
  if q = 0x0 then some (.portsc p)
  else if q = 0x4 then some (.portpmsc p)
  else if q = 0x8 then some (.portli p)
  else if q = 0xC then some (.porthlpmc p)
  else none

/-- The register at an Operational-bank offset (R34, R35). -/
def opRegAt (c : Config) (r : Nat) : Option Reg :=
  if r = 0x00 then some .usbcmd
  else if r = 0x04 then some .usbsts
  else if r = 0x08 then some .pagesize
  else if r = 0x0C then some .dnctrl
  else if r = 0x10 then some .crcrLo
  else if r = 0x14 then some .crcrHi
  else if r = 0x30 then some .dcbaapLo
  else if r = 0x34 then some .dcbaapHi
  else if r = 0x38 then some .config
  else if 0x400 ≤ r ∧ (r - 0x400) / 0x10 < c.maxPorts then portRegAt ((r - 0x400) / 0x10) ((r - 0x400) % 0x10)
  else none

/-- The register of interrupter n at offset q of its set (R37); +0x0C is a hole. -/
def intrRegAt (n q : Nat) : Option Reg :=
  if q = 0x00 then some (.iman n)
  else if q = 0x04 then some (.imod n)
  else if q = 0x08 then some (.erstsz n)
  else if q = 0x10 then some (.erstbaLo n)
  else if q = 0x14 then some (.erstbaHi n)
  else if q = 0x18 then some (.erdpLo n)
  else if q = 0x1C then some (.erdpHi n)
  else none

/-- The register at a Runtime-bank offset (R36, R37). -/
def rtRegAt (c : Config) (r : Nat) : Option Reg :=
  if r = 0 then some .mfindex
  else if 0x20 ≤ r ∧ (r - 0x20) / 0x20 < c.maxIntrs then intrRegAt ((r - 0x20) / 0x20) ((r - 0x20) % 0x20)
  else none

/-- Bank selection of R250 at an offset that is a multiple of 4; none is out of range (R84). DESIGN CHOICE (log 26): R250
ends the Capability bank at 0x20 and starts the Operational bank at CAPLENGTH; where CAPLENGTH is 0x1C, which Config.ok
admits, both hold 0x1C, and the model gives it to the Operational bank (USBCMD). At this hardware's CAPLENGTH of 0x20
(D3) the banks meet, and 0x1C is out of range (R252). -/
def regAt (c : Config) (off : Nat) : Option Reg :=
  if off < c.capLength then capRegAt off
  else if off < c.rtsOff then opRegAt c (off - c.capLength)
  else if off < c.dbOff then rtRegAt c (off - c.rtsOff)
  else if off < c.mmioSize ∧ (off - c.dbOff) / 4 ≤ c.maxSlots then some (.db ((off - c.dbOff) / 4))
  else none

/-- The byte offset of a register from the window base (R87). -/
def Reg.offset (c : Config) : Reg → Nat
  | .caplengthHciversion => 0x00
  | .hcsparams1 => 0x04
  | .hcsparams2 => 0x08
  | .hcsparams3 => 0x0C
  | .hccparams1 => 0x10
  | .dboff => 0x14
  | .rtsoff => 0x18
  | .usbcmd => c.capLength + 0x00
  | .usbsts => c.capLength + 0x04
  | .pagesize => c.capLength + 0x08
  | .dnctrl => c.capLength + 0x0C
  | .crcrLo => c.capLength + 0x10
  | .crcrHi => c.capLength + 0x14
  | .dcbaapLo => c.capLength + 0x30
  | .dcbaapHi => c.capLength + 0x34
  | .config => c.capLength + 0x38
  | .portsc p => c.capLength + 0x400 + 0x10 * p
  | .portpmsc p => c.capLength + 0x404 + 0x10 * p
  | .portli p => c.capLength + 0x408 + 0x10 * p
  | .porthlpmc p => c.capLength + 0x40C + 0x10 * p
  | .mfindex => c.rtsOff
  | .iman n => c.rtsOff + 0x20 + 0x20 * n
  | .imod n => c.rtsOff + 0x24 + 0x20 * n
  | .erstsz n => c.rtsOff + 0x28 + 0x20 * n
  | .erstbaLo n => c.rtsOff + 0x30 + 0x20 * n
  | .erstbaHi n => c.rtsOff + 0x34 + 0x20 * n
  | .erdpLo n => c.rtsOff + 0x38 + 0x20 * n
  | .erdpHi n => c.rtsOff + 0x3C + 0x20 * n
  | .db i => c.dbOff + 4 * i

/-- The registers that exist at a configuration (R84). -/
def Reg.present (c : Config) : Reg → Bool
  | .portsc p | .portpmsc p | .portli p | .porthlpmc p => decide (p < c.maxPorts)
  | .iman n | .imod n | .erstsz n | .erstbaLo n | .erstbaHi n | .erdpLo n | .erdpHi n => decide (n < c.maxIntrs)
  | .db i => decide (i ≤ c.maxSlots)
  | _ => true

/-- What R82 makes of an access's width and alignment: none where it reads 0 and writes nothing. An aligned 8-byte
access is here its low half; the fetch adds the high half. -/
def accessOf (a : MmioAccess) : Option Access :=
  if (a.width = 4 ∧ a.off % 4 = 0) ∨ (a.width = 8 ∧ a.off % 8 = 0) then
    some (if a.isWrite then .write (field a.value 0 32) else .read .full)
  else if a.width = 2 ∧ a.off % 2 = 0 then
    let lane := Lane.half ⟨a.off % 4 / 2, by omega⟩
    some (if a.isWrite then .writeNarrow lane else .read lane)
  else if a.width = 1 then
    let lane := Lane.byte ⟨a.off % 4, by omega⟩
    some (if a.isWrite then .writeNarrow lane else .read lane)
  else none

/-- The high half of an aligned 8-byte access: the width-4 access at off + 4 that follows it (R82). -/
def highHalfOf (a : MmioAccess) : Option MmioAccess :=
  if a.width = 8 ∧ a.off % 8 = 0 then
    some ⟨a.off + 4, 4, a.isWrite, (field a.value 32 32).setWidth 64⟩
  else none

/-- The register an access reaches, if any (R82, R84, R250). -/
def regOf (c : Config) (a : MmioAccess) : Option (Reg × Access) :=
  match accessOf a, regAt c (a.off - a.off % 4) with
  | some acc, some r => some (r, acc)
  | _, _ => none

/-- The MMIO access that reaches a register with a given lane: the inverse of `accessOf` (R82). -/
def toMmio (off : Nat) : Access → MmioAccess
  | .read .full => ⟨off, 4, false, 0⟩
  | .read (.half k) => ⟨off + 2 * k.val, 2, false, 0⟩
  | .read (.byte k) => ⟨off + k.val, 1, false, 0⟩
  | .write v => ⟨off, 4, true, v.setWidth 64⟩
  | .writeNarrow .full => ⟨off, 4, true, 0⟩
  | .writeNarrow (.half k) => ⟨off + 2 * k.val, 2, true, 0⟩
  | .writeNarrow (.byte k) => ⟨off + k.val, 1, true, 0⟩

end Sys2Proof.Machine
end

