-- ==== Sys2Proof/WellFormed.lean ====
section
/-! DEFINITION. What a well-formed instruction is: its TRB type is the constructor's (R118), its register exists at the
configuration (R84), and a narrow write names a narrow lane (R82). -/

namespace Sys2Proof

open Sys2Proof.Machine

/-- An access in the form R82 gives: a 1- or 2-byte write never names the full lane. -/
def Access.wf : Access → Bool
  | .writeNarrow .full => false
  | _ => true

/-- The TRB type code of R118 for each TRB constructor; none for the others. -/
def Instr.typeCode : Instr → Option Nat
  | .normal _ => some 1
  | .setupStage _ => some 2
  | .dataStage _ => some 3
  | .statusStage _ => some 4
  | .isoch _ => some 5
  | .link _ => some 6
  | .eventData _ => some 7
  | .noop _ => some 8
  | .enableSlot _ => some 9
  | .disableSlot _ => some 10
  | .addressDevice _ => some 11
  | .configureEndpoint _ => some 12
  | .evaluateContext _ => some 13
  | .resetEndpoint _ => some 14
  | .stopEndpoint _ => some 15
  | .setTrDequeuePointer _ => some 16
  | .resetDevice _ => some 17
  | .forceEvent _ => some 18
  | .negotiateBandwidth _ => some 19
  | .setLatencyToleranceValue _ => some 20
  | .getPortBandwidth _ => some 21
  | .forceHeader _ => some 22
  | .noopCommand _ => some 23
  | .transferEvent _ => some 32
  | .commandCompletionEvent _ => some 33
  | .portStatusChangeEvent _ => some 34
  | .bandwidthRequestEvent _ => some 35
  | .doorbellEvent _ => some 36
  | .hostControllerEvent _ => some 37
  | .deviceNotificationEvent _ => some 38
  | .mfindexWrapEvent _ => some 39
  | .malformedTrb _ | .caplengthHciversion _ | .hcsparams1 _ | .hcsparams2 _ | .hcsparams3 _ | .hccparams1 _
  | .dboff _ | .rtsoff _ | .usbcmd _ | .usbsts _ | .pagesize _ | .dnctrl _ | .crcrLo _ | .crcrHi _ | .dcbaapLo _
  | .dcbaapHi _ | .config _ | .portsc _ _ | .portpmsc _ _ | .portliPorthlpmc _ _ _ | .mfindex _ | .iman _ _
  | .imod _ _ | .erstsz _ _ | .erstbaLo _ _ | .erstbaHi _ _ | .erdpLo _ _ | .erdpHi _ _ | .db _ _ | .outOfRange _
  | .cmd _ | .xfer _ _ _ | .xinit _ _ _ _ | .evt _ | .attach _ _ | .detach _ => none

/-- The three words of a TRB constructor; none for the others. -/
def Instr.words : Instr → Option Trb
  | .normal t | .setupStage t | .dataStage t | .statusStage t | .isoch t | .link t | .eventData t | .noop t
  | .enableSlot t | .disableSlot t | .addressDevice t | .configureEndpoint t | .evaluateContext t
  | .resetEndpoint t | .stopEndpoint t | .setTrDequeuePointer t | .resetDevice t | .forceEvent t
  | .negotiateBandwidth t | .setLatencyToleranceValue t | .getPortBandwidth t | .forceHeader t | .noopCommand t
  | .transferEvent t | .commandCompletionEvent t | .portStatusChangeEvent t | .bandwidthRequestEvent t
  | .doorbellEvent t | .hostControllerEvent t | .deviceNotificationEvent t | .mfindexWrapEvent t => some t
  | .malformedTrb _ | .caplengthHciversion _ | .hcsparams1 _ | .hcsparams2 _ | .hcsparams3 _ | .hccparams1 _
  | .dboff _ | .rtsoff _ | .usbcmd _ | .usbsts _ | .pagesize _ | .dnctrl _ | .crcrLo _ | .crcrHi _ | .dcbaapLo _
  | .dcbaapHi _ | .config _ | .portsc _ _ | .portpmsc _ _ | .portliPorthlpmc _ _ _ | .mfindex _ | .iman _ _
  | .imod _ _ | .erstsz _ _ | .erstbaLo _ _ | .erstbaHi _ _ | .erdpLo _ _ | .erdpHi _ _ | .db _ _ | .outOfRange _
  | .cmd _ | .xfer _ _ _ | .xinit _ _ _ _ | .evt _ | .attach _ _ | .detach _ => none

/-- The register and the access of a register constructor; none for the others. -/
def Instr.register : Instr → Option (Reg × Access)
  | .caplengthHciversion a => some (.caplengthHciversion, a)
  | .hcsparams1 a => some (.hcsparams1, a)
  | .hcsparams2 a => some (.hcsparams2, a)
  | .hcsparams3 a => some (.hcsparams3, a)
  | .hccparams1 a => some (.hccparams1, a)
  | .dboff a => some (.dboff, a)
  | .rtsoff a => some (.rtsoff, a)
  | .usbcmd a => some (.usbcmd, a)
  | .usbsts a => some (.usbsts, a)
  | .pagesize a => some (.pagesize, a)
  | .dnctrl a => some (.dnctrl, a)
  | .crcrLo a => some (.crcrLo, a)
  | .crcrHi a => some (.crcrHi, a)
  | .dcbaapLo a => some (.dcbaapLo, a)
  | .dcbaapHi a => some (.dcbaapHi, a)
  | .config a => some (.config, a)
  | .portsc p a => some (.portsc p, a)
  | .portpmsc p a => some (.portpmsc p, a)
  | .portliPorthlpmc p h a => some (if h then .porthlpmc p else .portli p, a)
  | .mfindex a => some (.mfindex, a)
  | .iman n a => some (.iman n, a)
  | .imod n a => some (.imod n, a)
  | .erstsz n a => some (.erstsz n, a)
  | .erstbaLo n a => some (.erstbaLo n, a)
  | .erstbaHi n a => some (.erstbaHi n, a)
  | .erdpLo n a => some (.erdpLo n, a)
  | .erdpHi n a => some (.erdpHi n, a)
  | .db i a => some (.db i, a)
  | .normal _ | .setupStage _ | .dataStage _ | .statusStage _ | .isoch _ | .link _ | .eventData _ | .noop _
  | .enableSlot _ | .disableSlot _ | .addressDevice _ | .configureEndpoint _ | .evaluateContext _
  | .resetEndpoint _ | .stopEndpoint _ | .setTrDequeuePointer _ | .resetDevice _ | .forceEvent _
  | .negotiateBandwidth _ | .setLatencyToleranceValue _ | .getPortBandwidth _ | .forceHeader _ | .noopCommand _
  | .transferEvent _ | .commandCompletionEvent _ | .portStatusChangeEvent _ | .bandwidthRequestEvent _
  | .doorbellEvent _ | .hostControllerEvent _ | .deviceNotificationEvent _ | .mfindexWrapEvent _
  | .malformedTrb _ | .outOfRange _
  | .cmd _ | .xfer _ _ _ | .xinit _ _ _ _ | .evt _ | .attach _ _ | .detach _ => none

/-- The checks of a TRB constructor: the word's type is the constructor's (R118). -/
def Instr.wfTrb (i : Instr) : Bool :=
  match i.typeCode, i.words with
  | some code, some t => (trbType t).toNat == code
  | _, _ => true

/-- The checks of a register constructor: the register exists and the lane is one R82 gives. -/
def Instr.wfReg (c : Config) (i : Instr) : Bool :=
  match i.register with
  | some (r, a) => r.present c && a.wf
  | none => true

/-- The checks of the two rows that stand for everything else: an unrecognised type (R171), an access that names no
register (R250). -/
def Instr.wfRest (c : Config) : Instr → Bool
  | .malformedTrb b => !recognised (trbType (rawWords b))
  | .outOfRange a => (regOf c a).isNone
  | _ => true

/-- A well-formed instruction at a configuration. -/
def Instr.wf (c : Config) (i : Instr) : Bool := i.wfTrb && i.wfReg c && i.wfRest c

end Sys2Proof
end

