-- ==== Sys2Proof/Decode.lean ====
section
/-! DEFINITION. Decoding of a fetched unit into an instruction (R166, R171, R250), total on every input, and its
inverse. Unrecognised TRB types and offsets that name no register are rejected by name: they decode to the rows
MALFORMED_TRB and OUT_OF_RANGE. -/

namespace Sys2Proof

open Sys2Proof.Machine

/-- The row of a TRB by its type (R118). -/
def instrOfTrb (t : Trb) : Instr :=
  match (trbType t).toNat with
  | 1 => .normal t
  | 2 => .setupStage t
  | 3 => .dataStage t
  | 4 => .statusStage t
  | 5 => .isoch t
  | 6 => .link t
  | 7 => .eventData t
  | 8 => .noop t
  | 9 => .enableSlot t
  | 10 => .disableSlot t
  | 11 => .addressDevice t
  | 12 => .configureEndpoint t
  | 13 => .evaluateContext t
  | 14 => .resetEndpoint t
  | 15 => .stopEndpoint t
  | 16 => .setTrDequeuePointer t
  | 17 => .resetDevice t
  | 18 => .forceEvent t
  | 19 => .negotiateBandwidth t
  | 20 => .setLatencyToleranceValue t
  | 21 => .getPortBandwidth t
  | 22 => .forceHeader t
  | 23 => .noopCommand t
  | 32 => .transferEvent t
  | 33 => .commandCompletionEvent t
  | 34 => .portStatusChangeEvent t
  | 35 => .bandwidthRequestEvent t
  | 36 => .doorbellEvent t
  | 37 => .hostControllerEvent t
  | 38 => .deviceNotificationEvent t
  | 39 => .mfindexWrapEvent t
  | _ => .malformedTrb (encodeTrb t)

/-- The instruction the 16 raw bytes of a ring slot stand for (R166, R321, R384). -/
def instrOfRaw (b : Raw) : Instr :=
  match decodeTrb b with
  | .ok t => instrOfTrb t
  | .error _ => .malformedTrb b

/-- The row of a register (R250). -/
def instrOfReg : Reg → Access → Instr
  | .caplengthHciversion, a => .caplengthHciversion a
  | .hcsparams1, a => .hcsparams1 a
  | .hcsparams2, a => .hcsparams2 a
  | .hcsparams3, a => .hcsparams3 a
  | .hccparams1, a => .hccparams1 a
  | .dboff, a => .dboff a
  | .rtsoff, a => .rtsoff a
  | .usbcmd, a => .usbcmd a
  | .usbsts, a => .usbsts a
  | .pagesize, a => .pagesize a
  | .dnctrl, a => .dnctrl a
  | .crcrLo, a => .crcrLo a
  | .crcrHi, a => .crcrHi a
  | .dcbaapLo, a => .dcbaapLo a
  | .dcbaapHi, a => .dcbaapHi a
  | .config, a => .config a
  | .portsc p, a => .portsc p a
  | .portpmsc p, a => .portpmsc p a
  | .portli p, a => .portliPorthlpmc p false a
  | .porthlpmc p, a => .portliPorthlpmc p true a
  | .mfindex, a => .mfindex a
  | .iman n, a => .iman n a
  | .imod n, a => .imod n a
  | .erstsz n, a => .erstsz n a
  | .erstbaLo n, a => .erstbaLo n a
  | .erstbaHi n, a => .erstbaHi n a
  | .erdpLo n, a => .erdpLo n a
  | .erdpHi n, a => .erdpHi n a
  | .db i, a => .db i a

/-- The instruction an MMIO access stands for (R82, R250). -/
def instrOfAccess (c : Config) (a : MmioAccess) : Instr :=
  match regOf c a with
  | some (r, acc) => instrOfReg r acc
  | none => .outOfRange a

/-- The instruction a host-interface operation stands for (R410). -/
def instrOfHost : HostOp → Instr
  | .cmd b => .cmd b
  | .xfer s e b => .xfer s e b
  | .xinit s e base size => .xinit s e base size
  | .evt n => .evt n
  | .attach p d => .attach p d
  | .detach s => .detach s

/-- The decoder: total on every fetched unit. -/
def decode (c : Config) : Fetched → Instr
  | .trb b => instrOfRaw b
  | .access a => instrOfAccess c a
  | .host op => instrOfHost op

/-- The encoder, from R110 and R172 (TRBs), R82 and R87 (registers) and R16 (host operations). -/
def encode (c : Config) : Instr → Fetched
  | .normal t | .setupStage t | .dataStage t | .statusStage t | .isoch t | .link t | .eventData t | .noop t
  | .enableSlot t | .disableSlot t | .addressDevice t | .configureEndpoint t | .evaluateContext t
  | .resetEndpoint t | .stopEndpoint t | .setTrDequeuePointer t | .resetDevice t | .forceEvent t
  | .negotiateBandwidth t | .setLatencyToleranceValue t | .getPortBandwidth t | .forceHeader t | .noopCommand t
  | .transferEvent t | .commandCompletionEvent t | .portStatusChangeEvent t | .bandwidthRequestEvent t
  | .doorbellEvent t | .hostControllerEvent t | .deviceNotificationEvent t | .mfindexWrapEvent t =>
    .trb (encodeTrb t)
  | .malformedTrb b => .trb b
  | .caplengthHciversion a => .access (toMmio (Reg.offset c .caplengthHciversion) a)
  | .hcsparams1 a => .access (toMmio (Reg.offset c .hcsparams1) a)
  | .hcsparams2 a => .access (toMmio (Reg.offset c .hcsparams2) a)
  | .hcsparams3 a => .access (toMmio (Reg.offset c .hcsparams3) a)
  | .hccparams1 a => .access (toMmio (Reg.offset c .hccparams1) a)
  | .dboff a => .access (toMmio (Reg.offset c .dboff) a)
  | .rtsoff a => .access (toMmio (Reg.offset c .rtsoff) a)
  | .usbcmd a => .access (toMmio (Reg.offset c .usbcmd) a)
  | .usbsts a => .access (toMmio (Reg.offset c .usbsts) a)
  | .pagesize a => .access (toMmio (Reg.offset c .pagesize) a)
  | .dnctrl a => .access (toMmio (Reg.offset c .dnctrl) a)
  | .crcrLo a => .access (toMmio (Reg.offset c .crcrLo) a)
  | .crcrHi a => .access (toMmio (Reg.offset c .crcrHi) a)
  | .dcbaapLo a => .access (toMmio (Reg.offset c .dcbaapLo) a)
  | .dcbaapHi a => .access (toMmio (Reg.offset c .dcbaapHi) a)
  | .config a => .access (toMmio (Reg.offset c .config) a)
  | .portsc p a => .access (toMmio (Reg.offset c (.portsc p)) a)
  | .portpmsc p a => .access (toMmio (Reg.offset c (.portpmsc p)) a)
  | .portliPorthlpmc p false a => .access (toMmio (Reg.offset c (.portli p)) a)
  | .portliPorthlpmc p true a => .access (toMmio (Reg.offset c (.porthlpmc p)) a)
  | .mfindex a => .access (toMmio (Reg.offset c .mfindex) a)
  | .iman n a => .access (toMmio (Reg.offset c (.iman n)) a)
  | .imod n a => .access (toMmio (Reg.offset c (.imod n)) a)
  | .erstsz n a => .access (toMmio (Reg.offset c (.erstsz n)) a)
  | .erstbaLo n a => .access (toMmio (Reg.offset c (.erstbaLo n)) a)
  | .erstbaHi n a => .access (toMmio (Reg.offset c (.erstbaHi n)) a)
  | .erdpLo n a => .access (toMmio (Reg.offset c (.erdpLo n)) a)
  | .erdpHi n a => .access (toMmio (Reg.offset c (.erdpHi n)) a)
  | .db i a => .access (toMmio (Reg.offset c (.db i)) a)
  | .outOfRange a => .access a
  | .cmd b => .host (.cmd b)
  | .xfer s e b => .host (.xfer s e b)
  | .xinit s e base size => .host (.xinit s e base size)
  | .evt n => .host (.evt n)
  | .attach p d => .host (.attach p d)
  | .detach s => .host (.detach s)

/-- The TRB whose control word is w and whose other words are 0 (the table gives a TRB row its control word only). -/
def tableTrb (w : Nat) : Raw := encodeTrb ⟨0, 0, BitVec.ofNat 32 w⟩

/-- A 32-bit read at offset w, under the table's mask 0x3FFC. -/
def tableAccess (w : Nat) : MmioAccess := ⟨w % 0x4000 - w % 4, 4, false, 0⟩

/-- Whether w names a register: its bits above 13 are 0 and the offset is a register's. -/
def tableNamesRegister (w : Nat) : Bool :=
  decide (w < 0x4000) && (regOf Config.hardware (tableAccess w)).isSome

/-- Whether w is a recognised TRB type with every other bit 0. -/
def tableIsPlainTrb (w : Nat) : Bool :=
  decide (w % 0x400 = 0) && recognised (trbType (rawWords (tableTrb w)))

/-- DESIGN CHOICE (log 19): the table numbers a TRB row by its control word and a register row by its byte offset, so
one word can stand for both (0x3000 is CONFIGURE_ENDPOINT and DB[0]). A word of more than 16 bits is first read as a
TRB, a shorter one first as a register; a word that is neither is an unrecognised TRB or an empty offset. -/
def tableFetched (nbits w : Nat) : Fetched :=
  if 16 < nbits then
    if tableIsPlainTrb w then .trb (tableTrb w)
    else if tableNamesRegister w then .access (tableAccess w)
    else .trb (tableTrb w)
  else if tableNamesRegister w then .access (tableAccess w)
  else if w < 0x400 then .access (tableAccess w)
  else .trb (tableTrb w)

/-- The host's probe: what the decoder reads from a word numbered as spec/opcode_table.json numbers it (log 19). -/
def decodeTableWord (nbits w : Nat) : Option Instr :=
  if nbits = 0 then none else some (decode Config.hardware (tableFetched nbits w))

end Sys2Proof
end

