-- ==== Sys2Proof/Machine/State.lean ====
section
/-! DEFINITION. The state of the core as plain data (R30-R53), the state after construction (R460), and the reasons a
step can stop. -/

namespace Sys2Proof.Machine

/-- Why the machine stops with a fault. The hardware itself has no fault state (R420). -/
inductive Fault where
  /-- Raised by the meaning of a TRB when it is asked to run for a transfer ring whose Device Slot is not in the slot
  table. No step asks that: a drain runs a TRB only after it has found the slot (R374, R380). SAFE (log 17). -/
  | noConsumer
deriving DecidableEq, Repr

/-- Why the model gives an instruction no meaning. -/
inductive Refusal where
  /-- Raised by an arm of exec for an instruction the model has not reached. SAFE. No arm raises it now. -/
  | notModelled (mnemonic : String)
deriving DecidableEq, Repr

/-- `ctrl_state` (R32). -/
inductive CtrlState where
  | running
  | halted
deriving DecidableEq, Repr

/-- `CommandRing.state` (R40, R206). -/
inductive CmdRingState where
  | stopped
  | running
  | aborted
deriving DecidableEq, Repr

/-- The slot state (R47, R323). -/
inductive SlotState where
  | disabled
  | default
  | addressed
  | configured
deriving DecidableEq, Repr

/-- The endpoint state (R48, R332). -/
inductive EpState where
  | disabled
  | running
  | halted
  | stopped
  | error
deriving DecidableEq, Repr

/-- The stored bits of USBCMD (R34, R157). -/
structure UsbCmd where
  rs : Bool
  inte : Bool
  hsee : Bool
  ewe : Bool
deriving DecidableEq, Repr

/-- The stored bits of USBSTS (R34, R158); HCH is derived from `ctrl` (R32). -/
structure UsbSts where
  hse : Bool
  eint : Bool
  pcd : Bool
  sre : Bool
deriving DecidableEq, Repr

/-- One port register set and `port_slot` (R35, R162). -/
structure Port where
  ccs : Bool
  ped : Bool
  pls : BitVec 4
  pp : Bool
  speed : BitVec 4
  csc : Bool
  pec : Bool
  wrc : Bool
  prc : Bool
  wce : Bool
  wde : Bool
  woe : Bool
  portpmsc : Word
  slot : Option Nat
deriving DecidableEq, Repr

/-- One interrupter register set (R37, R163). -/
structure Interrupter where
  ip : Bool
  ie : Bool
  imodi : BitVec 16
  imodc : BitVec 16
  erstsz : BitVec 16
  erstba : BitVec 58
  erdpPtr : BitVec 60
  desi : BitVec 3
  ehb : Bool
deriving DecidableEq, Repr

/-- A command or transfer ring (R40, R42). A slot holds 16 raw bytes (R39). -/
structure Ring where
  init : Bool
  base : Addr
  size : Nat
  slots : List Raw
  enq : Nat
  pcs : Bool
  deq : Nat
  ccs : Bool
deriving DecidableEq, Repr

/-- One event-ring segment with its slots (R41). -/
structure Segment where
  base : Addr
  size : Nat
  slots : List Raw
deriving DecidableEq, Repr

/-- An event ring (R41) with the guest's consumer cursor (R43). -/
structure EventRing where
  segs : List Segment
  eseg : Nat
  eidx : Nat
  pcs : Bool
  dseg : Nat
  didx : Nat
  gseg : Nat
  gidx : Nat
  gccs : Bool
deriving DecidableEq, Repr

/-- The SlotContext (R47). -/
structure SlotContext where
  routeString : BitVec 20
  deviceAddress : Nat
  state : SlotState
  speed : Speed
deriving DecidableEq, Repr

/-- An EndpointContext (R48). Its dequeue pointer and cycle state are read-outs of the transfer ring (D48). -/
structure EpContext where
  state : EpState
  type : BitVec 3
deriving DecidableEq, Repr

/-- A Device Slot (R46). `dev` is the shared reference to the device capability, a handle (log 13); `serial` is the
model's own: which attach created the slot, the identity of S in R380 (log 6). -/
structure DeviceSlot where
  port : Nat
  dev : Nat
  serial : Nat
  ctx : SlotContext
  eps : List EpContext
  rings : List Ring
  ctlResp : List Byte
  draining : List Bool
deriving DecidableEq, Repr

/-- The consumer whose cursor names the TRB being executed, the role a program counter plays (R30). -/
inductive Consumer where
  | command
  | transfer (sid ep : Nat)
deriving DecidableEq, Repr

/-- What an MMIO access in progress still has to do. -/
inductive Work where
  /-- The command drain of R320, with its local `posted`. -/
  | cmdDrain (posted : Bool)
  /-- The transfer drain of R374 or R380 on endpoint ep of slot sid, the Device Slot whose serial number is given. -/
  | xferDrain (sid serial ep : Nat) (posted : Bool)
  /-- Only the second half of an 8-byte access is left (R82). -/
  | idle
deriving DecidableEq, Repr

/-- The second half of an 8-byte access (R82): the access, and the low half a read has returned. -/
structure HighHalf where
  access : MmioAccess
  low : Word
deriving DecidableEq, Repr

/-- An MMIO access in progress: its work, then its second half if it has one. -/
structure Task where
  work : Work
  high : Option HighHalf
deriving DecidableEq, Repr

/-- What the outside world does next (R410, R91; log 2). -/
inductive Input where
  /-- A vCPU makes an MMIO access. -/
  | access (a : MmioAccess)
  /-- A host-interface operation. -/
  | host (op : HostOp)
  /-- The scheduler lets the k-th access in progress take the lock for its next atomic step (R91, R380). -/
  | turn (k : Nat)
  /-- An outside agent puts these bytes into guest memory (R96, log 8). -/
  | memory (addr : Addr) (bytes : List Byte)
  /-- Guest memory at these n bytes is taken away: accesses to it answer MemFault (R96, log 8). -/
  | unmap (addr : Addr) (n : Nat)
  /-- The next answers of the outside agents (R370, R36, R96; log 11). -/
  | answers (mfindex : List (BitVec 14)) (speed : List Speed) (device : List DevAnswer) (memFault : List Bool)
deriving DecidableEq, Repr

/-- The value or verdict an operation returns to its caller. -/
inductive Result where
  /-- "-": the operation returns nothing. -/
  | none
  /-- The value a read returns, zero-extended (R82). -/
  | value (v : BitVec 64)
  /-- `Posted`: the TRB's event is in the event ring (R221). -/
  | posted
  /-- `Dropped`: there was no segment to post the event in (R221). -/
  | dropped
  /-- `Queued(address)` (R203). -/
  | queued (addr : Addr)
  /-- `Full` (R203). -/
  | full
  /-- `Rejected` (R203, R232). -/
  | rejected
  /-- A ring was initialised (R201). -/
  | initialised
  /-- `InitRejected` (R201). -/
  | initRejected
  /-- The event a guest consumed (R224). -/
  | event (b : Raw)
  /-- No event for the guest (R224). -/
  | noEvent
  /-- The slot id an attach returns (R400). -/
  | slot (id : Nat)
  /-- `NoFreeSlots` (R400). -/
  | noFreeSlots
  /-- `PortUnavailable` (R400). -/
  | portUnavailable
deriving DecidableEq, Repr

/-- A call of the core to a device capability (R370). -/
inductive DevCall where
  | speed (dev : Nat)
  | reset (dev : Nat)
  | handleControl (dev : Nat) (request : List Byte)
  | handleTransfer (dev : Nat) (endpoint : Nat) (data : List Byte)
deriving DecidableEq, Repr

/-- The answers the outside agents will give, oldest first; when a list is empty the answer is the opaque value of
Config at `count` (log 11). -/
structure Draws where
  mfindex : List (BitVec 14)
  speed : List Speed
  device : List DevAnswer
  memFault : List Bool
  count : Nat
deriving DecidableEq, Repr

/-- The state of the core, of the guest memory it reaches and of the accesses in progress. -/
structure State where
  /-- The configuration (R10, R31); no step writes it (log 1). -/
  cfg : Config
  /-- `ctrl_state` (R32). -/
  ctrl : CtrlState
  /-- USBCMD (R34). -/
  usbcmd : UsbCmd
  /-- USBSTS (R34). -/
  usbsts : UsbSts
  /-- DNCTRL (R34). -/
  dnctrl : BitVec 16
  /-- CRCR pointer bits 63:6 (R34). -/
  crcrPtr : BitVec 58
  /-- CRCR.RCS (R34). -/
  crcrRcs : Bool
  /-- DCBAAP bits 63:6 (R34). -/
  dcbaap : BitVec 58
  /-- CONFIG.MaxSlotsEn (R34). -/
  maxSlotsEn : BitVec 8
  /-- The port register sets (R35). -/
  ports : List Port
  /-- The interrupter register sets (R37). -/
  intrs : List Interrupter
  /-- The doorbell targets (R38). -/
  db : List (BitVec 8)
  /-- The command ring (R40). -/
  cmdRing : Ring
  /-- `CommandRing.state` (R40). -/
  cmdState : CmdRingState
  /-- The event rings (R41) with the guest cursors (R43). -/
  evRings : List EventRing
  /-- The slot table (R45). -/
  slotTab : List (Option DeviceSlot)
  /-- The address bitmap, indexed by address; index 0 is permanently reserved (R49). -/
  addrUsed : List Bool
  /-- Guest memory (R96): the listed addresses are guest RAM (log 8). -/
  mem : List Host.Cell
  /-- The consumer whose TRB is being executed (R30, log 17). -/
  unit : Consumer
  /-- The access that holds the controller lock between two steps (R51, R90; log 4). -/
  locked : Option Task
  /-- The accesses in progress that do not hold the lock (R380, R82; log 3). -/
  tasks : List Task
  /-- What the outside world does next, oldest first (log 2). -/
  inbox : List Input
  /-- The second half of the 8-byte access being executed (R82, log 16). -/
  cont : Option HighHalf
  /-- What the last operation returned (log 12). -/
  result : Result
  /-- The calls made to device capabilities, oldest first (log 12). -/
  calls : List DevCall
  /-- The answers of the outside agents (log 11). -/
  draws : Draws
  /-- How many Device Slots have been created (log 6). -/
  serial : Nat
deriving DecidableEq, Repr

/-- An uninitialised ring (R40, R42). -/
def Ring.fresh : Ring := ⟨false, 0, 0, [], 0, true, 0, true⟩

/-- An event ring without segments (R41, R43; log 22 for the guest cursor). -/
def EventRing.fresh : EventRing := ⟨[], 0, 0, true, 0, 0, 0, 0, true⟩

/-- A port with nothing attached: PORTSC = 0x000002A0 (R35, D32). -/
def Port.fresh : Port where
  ccs := false
  ped := false
  pls := 5
  pp := true
  speed := 0
  csc := false
  pec := false
  wrc := false
  prc := false
  wce := false
  wde := false
  woe := false
  portpmsc := 0
  slot := none

/-- An interrupter register set after construction and after HCRST (R37). -/
def Interrupter.fresh : Interrupter := ⟨false, false, 0x0FA0, 0, 0, 0, 0, 0, false⟩

/-- An endpoint context at Device Slot creation (R48). -/
def EpContext.fresh : EpContext := ⟨.disabled, 0⟩

/-- The state after construction at a configuration (R460). -/
def State.construct (c : Config) : State where
  cfg := c
  ctrl := .halted
  usbcmd := ⟨false, false, false, false⟩
  usbsts := ⟨false, false, false, false⟩
  dnctrl := 0
  crcrPtr := 0
  crcrRcs := false
  dcbaap := 0
  maxSlotsEn := 0
  ports := List.replicate c.maxPorts Port.fresh
  intrs := List.replicate c.maxIntrs Interrupter.fresh
  db := List.replicate (c.maxSlots + 1) 0
  cmdRing := Ring.fresh
  cmdState := .stopped
  evRings := List.replicate c.maxIntrs EventRing.fresh
  slotTab := List.replicate (c.maxSlots + 1) none
  addrUsed := List.replicate (c.numAddr + 1) false
  mem := []
  unit := .command
  locked := none
  tasks := []
  inbox := []
  cont := none
  result := .none
  calls := []
  draws := ⟨[], [], [], [], 0⟩
  serial := 0

/-- The machine right after construction at the configuration of R10 (R460). -/
def State.reset : State := State.construct Config.hardware

end Sys2Proof.Machine
end

