-- ==== Sys2Proof/Machine/Memory.lean ====
section
/-! DEFINITION. Guest memory as a list of cells in one canonical form (R96; log 8): addresses strictly rising, all
below 2^64. The listed addresses are guest RAM; an unlisted address reads as nothing, and an access to it answers
MemFault. -/

namespace Sys2Proof.Machine

/-- The canonical form of guest memory. -/
def Memory.wf (m : List Host.Cell) : Bool :=
  decide ((m.map Prod.fst).Pairwise (· < ·)) && m.all (fun c => decide (c.1 < 2 ^ 64))

/-- The byte at an address; none where there is no guest RAM. -/
def memGet (m : List Host.Cell) (a : Nat) : Option Byte :=
  match m with
  | [] => none
  | c :: r => if c.1 = a then some c.2 else memGet r a

/-- Put one byte, in order. -/
def memPut (m : List Host.Cell) (a : Nat) (b : Byte) : List Host.Cell :=
  match m with
  | [] => [(a, b)]
  | c :: r => if a < c.1 then (a, b) :: c :: r else if a = c.1 then (a, b) :: r else c :: memPut r a b

/-- Take one address out of guest RAM. -/
def memErase (m : List Host.Cell) (a : Nat) : List Host.Cell := m.filter (fun c => decide (c.1 ≠ a))

/-- n bytes from an address on, address arithmetic modulo 2^64 (R13); none if one of them is not guest RAM. -/
def memGetN (m : List Host.Cell) (a : Addr) : Nat → Option (List Byte)
  | 0 => some []
  | n + 1 =>
    match memGet m a.toNat, memGetN m (a + 1) n with
    | some b, some bs => some (b :: bs)
    | _, _ => none

/-- Put bytes from an address on, address arithmetic modulo 2^64 (R13). -/
def memPutN (m : List Host.Cell) (a : Addr) : List Byte → List Host.Cell
  | [] => m
  | b :: bs => memPutN (memPut m a.toNat b) (a + 1) bs

/-- Take n bytes out of guest RAM. -/
def memEraseN (m : List Host.Cell) (a : Addr) : Nat → List Host.Cell
  | 0 => m
  | n + 1 => memEraseN (memErase m a.toNat) (a + 1) n

end Sys2Proof.Machine
end

