-- ==== Sys2Proof/Machine/Rings.lean ====
section
/-! DEFINITION. The ring engines (R200-R224, R233): the cycle-bit protocol of the command and transfer rings, and the
event rings. -/

namespace Sys2Proof.Machine

/-- The raw bytes of slot i. -/
def Ring.at (r : Ring) (i : Nat) : Raw := r.slots.getD i 0

/-- The guest-physical address slot i stands for, `base + 16*i` modulo 2^64 (R97). -/
def Ring.addr (r : Ring) (i : Nat) : Addr := r.base + BitVec.ofNat 64 (16 * i)

/-- `valid(R, i)` (R44, R200). -/
def Ring.valid (r : Ring) (i : Nat) : Bool := r.init && (rawCycle (r.at i) == r.ccs)

/-- `empty(R)` (R200). -/
def Ring.empty (r : Ring) : Bool := !r.valid r.deq

/-- `full(R)` (R200). -/
def Ring.full (r : Ring) : Bool := r.init && (r.enq == r.deq) && r.valid r.deq

/-- `init(base, size)` (R201): none is `InitRejected`. -/
def Ring.initialise (base : Addr) (size : Nat) : Option Ring :=
  if size = 0 ∨ base = 0 ∨ base.toNat % 16 ≠ 0 then none
  else some ⟨true, base, size, List.replicate size 0, 0, true, 0, true⟩

/-- The producer's cursor after one more TRB, and its cycle state (R203). -/
def Ring.produced (r : Ring) : Ring :=
  if r.enq + 1 = r.size then { r with enq := 0, pcs := !r.pcs } else { r with enq := r.enq + 1 }

/-- `queue(R, b)` (R203): the ring and the verdict. -/
def Ring.queue (r : Ring) (b : Raw) : Ring × Result :=
  if !r.init then (r, .rejected)
  else if r.full then (r, .full)
  else ({ r with slots := r.slots.set r.enq (rawSetCycle b r.pcs) }.produced, .queued (r.addr r.enq))

/-- The consumer's cursor after one more TRB, and its cycle state (R204). -/
def Ring.advance (r : Ring) : Ring :=
  if r.deq + 1 = r.size then { r with deq := 0, ccs := !r.ccs } else { r with deq := r.deq + 1 }

/-- `next(R)` (R204): the TRB, its address and the ring after it; none on an empty ring. -/
def Ring.next (r : Ring) : Option (Raw × Addr × Ring) :=
  if r.empty then none else some (r.at r.deq, r.addr r.deq, r.advance)

/-- `base <= ptr < base + 16*size`, the end address modulo 2^64 (R13, R222, R233; log 18). -/
def inRange (base : Addr) (size : Nat) (ptr : Addr) : Bool :=
  decide (base ≤ ptr) && decide (ptr < base + BitVec.ofNat 64 (16 * size))

/-- `TransferRing.set_dequeue_ptr(ptr, cycle)` (R233). -/
def Ring.setDequeuePtr (r : Ring) (ptr : Addr) (cycle : Bool) : Ring :=
  if r.init && inRange r.base r.size ptr then { r with deq := (ptr - r.base).toNat / 16, ccs := cycle } else r

/-- The dequeue pointer of an endpoint context, read out of its ring (R48, D48). -/
def Ring.dequeuePtr (r : Ring) : Addr := r.addr r.deq

/-- A segment that `set_segments` rejects (R220). -/
def segRejected (g : Addr × Nat) : Bool :=
  decide (g.2 = 0) || decide (g.1 = 0) || decide (g.1.toNat % 16 ≠ 0)

/-- `set_segments(segs)` (R220): none is `Rejected`. -/
def EventRing.setSegments (gs : List (Addr × Nat)) : Option EventRing :=
  if gs = [] ∨ gs.any segRejected then none
  else some ⟨gs.map (fun g => ⟨g.1, g.2, List.replicate g.2 0⟩), 0, 0, true, 0, 0, 0, 0, true⟩

/-- The segment with index s. -/
def EventRing.seg (e : EventRing) (s : Nat) : Segment := e.segs.getD s ⟨0, 0, []⟩

/-- The raw bytes of slot i of segment s. -/
def EventRing.at (e : EventRing) (s i : Nat) : Raw := (e.seg s).slots.getD i 0

/-- The producer's position after one more event, with the flip at every segment end (R221, C7). -/
def EventRing.produced (e : EventRing) : EventRing :=
  if e.eidx + 1 = (e.seg e.eseg).size then
    { e with eidx := 0, eseg := (e.eseg + 1) % e.segs.length, pcs := !e.pcs }
  else { e with eidx := e.eidx + 1 }

/-- The event ring with raw bytes written at slot i of segment s. -/
def EventRing.put (e : EventRing) (s i : Nat) (b : Raw) : EventRing :=
  { e with segs := e.segs.modify s (fun g => { g with slots := g.slots.set i b }) }

/-- `EventRing.queue(event)` (R221): none is `Dropped` for want of segments. There is no full check. -/
def EventRing.post (e : EventRing) (t : Trb) : Option EventRing :=
  if e.segs = [] then none
  else some ((e.put e.eseg e.eidx (encodeTrb (setCycle t e.pcs))).produced)

/-- The linear search of R222: the first segment, counted from s, that holds ptr, and the slot in it. -/
def segSearch (ptr : Addr) : List Segment → Nat → Option (Nat × Nat)
  | [], _ => none
  | g :: gs, s =>
    if inRange g.base g.size ptr then some (s, (ptr - g.base).toNat / 16) else segSearch ptr gs (s + 1)

/-- `EventRing.set_dequeue_ptr(ptr)` (R222). -/
def EventRing.setDequeuePtr (e : EventRing) (ptr : Addr) : EventRing :=
  match segSearch ptr e.segs 0 with
  | some (s, i) => { e with dseg := s, didx := i }
  | none => e

/-- The guest's cursor after one more event (R224). -/
def EventRing.consumed (e : EventRing) : EventRing :=
  if e.gidx + 1 = (e.seg e.gseg).size then
    { e with gidx := 0, gseg := (e.gseg + 1) % e.segs.length, gccs := !e.gccs }
  else { e with gidx := e.gidx + 1 }

/-- The guest's consumption of the next event (R224). -/
def EventRing.consume (e : EventRing) : EventRing × Result :=
  if e.segs = [] then (e, .noEvent)
  else if rawCycle (e.at e.gseg e.gidx) != e.gccs then (e, .noEvent)
  else (e.consumed, .event (e.at e.gseg e.gidx))

end Sys2Proof.Machine
end

