-- ==== Sys2Proof/Machine/Flags.lean ====
section
/-! DEFINITION. Completion codes (R120) and the status and control bits of the registers: read values, plain writes and
write-1-to-clear writes (R53, R86, R157-R163, R260-R285). -/

namespace Sys2Proof.Machine

/-- Success (R120). -/
def ccSuccess : BitVec 8 := 1
/-- Data Buffer Error (R120). -/
def ccDataBufferError : BitVec 8 := 2
/-- USB Transaction Error (R120). -/
def ccUsbTransactionError : BitVec 8 := 4
/-- TRB Error (R120). -/
def ccTrbError : BitVec 8 := 5
/-- No Slots Available Error (R120). -/
def ccNoSlotsAvailable : BitVec 8 := 9
/-- Slot Not Enabled Error (R120). -/
def ccSlotNotEnabled : BitVec 8 := 11
/-- Short Packet (R120). -/
def ccShortPacket : BitVec 8 := 13
/-- Context State Error (R120). -/
def ccContextStateError : BitVec 8 := 19
/-- Command Ring Stopped (R120). -/
def ccCommandRingStopped : BitVec 8 := 24

/-- A write-1-to-clear bit: cleared where the written bit is 1 (R86). -/
def w1c (old written : Bool) : Bool := old && !written

/-- HCSPARAMS1 (R150). -/
def hcsparams1Word (c : Config) : Word :=
  (BitVec.ofNat 8 c.maxPorts ++ 0#5 ++ BitVec.ofNat 11 c.maxIntrs ++ BitVec.ofNat 8 c.maxSlots : BitVec (8 + 5 + 11 + 8))

/-- CAPLENGTH/HCIVERSION (R151, C5). -/
def caplengthWord (c : Config) : Word := (c.version ++ 0#8 ++ BitVec.ofNat 8 c.capLength : BitVec (16 + 8 + 8))

/-- HCSPARAMS2 (R152). -/
def hcsparams2Word (c : Config) : Word := (0#24 ++ BitVec.ofNat 4 c.erstMaxExp ++ 0#4 : BitVec (24 + 4 + 4))

/-- HCSPARAMS3 (R153). -/
def hcsparams3Word : Word := 0

/-- HCCPARAMS1: AC64 and NSS (R154). -/
def hccparams1Word : Word := flag true 0 ||| flag true 7

/-- DBOFF (R155). -/
def dboffWord (c : Config) : Word := BitVec.ofNat 32 c.dbOff

/-- RTSOFF (R156). -/
def rtsoffWord (c : Config) : Word := BitVec.ofNat 32 c.rtsOff

/-- The read value of USBCMD (R260). -/
def UsbCmd.word (u : UsbCmd) : Word := flag u.rs 0 ||| flag u.inte 2 ||| flag u.hsee 3 ||| flag u.ewe 10

/-- The read value of USBSTS, HCH = Halted (R264). -/
def usbstsWord (ctrl : CtrlState) (u : UsbSts) : Word :=
  flag (decide (ctrl = .halted)) 0 ||| flag u.hse 2 ||| flag u.eint 3 ||| flag u.pcd 4 ||| flag u.sre 10

/-- The write-1-to-clear bits of USBSTS (R265). -/
def UsbSts.write (u : UsbSts) (v : Word) : UsbSts :=
  ⟨w1c u.hse (bit v 2), w1c u.eint (bit v 3), w1c u.pcd (bit v 4), w1c u.sre (bit v 10)⟩

/-- The read value of the low half of CRCR: CRR only (R160, R267). -/
def crcrLoWord (st : CmdRingState) : Word := flag (decide (st = .running)) 3

/-- The read value of PORTSC (R271). -/
def Port.word (p : Port) : Word :=
  flag p.ccs 0 ||| flag p.ped 1 ||| (p.pls.setWidth 32 <<< 5) ||| flag p.pp 9 ||| (p.speed.setWidth 32 <<< 10)
    ||| flag p.csc 17 ||| flag p.pec 18 ||| flag p.wrc 19 ||| flag p.prc 21
    ||| flag p.wce 25 ||| flag p.wde 26 ||| flag p.woe 27

/-- The bits a PORTSC write changes before a port reset (R272). -/
def Port.write (p : Port) (v : Word) : Port :=
  { p with
    csc := w1c p.csc (bit v 17)
    pec := w1c p.pec (bit v 18)
    wrc := w1c p.wrc (bit v 19)
    prc := w1c p.prc (bit v 21)
    ped := w1c p.ped (bit v 1)
    wce := bit v 25
    wde := bit v 26
    woe := bit v 27 }

/-- The port bits a port reset changes (R273). -/
def Port.reset (p : Port) : Port :=
  if p.ccs then { p with ped := true, pls := 0, prc := true } else { p with prc := true }

/-- The speed code of PORTSC: Full 1, High 3, Super 4 (R162, R400). -/
def speedCode : Speed → BitVec 4
  | .full => 1
  | .high => 3
  | .super => 4

/-- The port bits an attach changes (R400). -/
def Port.attach (p : Port) (sp : Speed) (slot : Nat) : Port :=
  { p with
    ccs := true
    csc := true
    speed := speedCode sp
    ped := decide (sp = .super)
    pls := if sp = .super then 0 else 7
    slot := some slot }

/-- The port bits a detach changes (R403). -/
def Port.detach (p : Port) : Port :=
  { p with ccs := false, ped := false, speed := 0, pls := 5, csc := true, slot := none }

/-- The port bits HCRST leaves (R35; WCE, WDE and WOE: log 14). -/
def Port.hcrst (p : Port) : Port :=
  { p with
    ped := false
    csc := p.ccs
    pec := false
    wrc := false
    prc := false
    wce := false
    wde := false
    woe := false
    pls := if p.ccs then 7 else 5
    pp := true
    portpmsc := 0 }

/-- The read value of IMAN (R281). -/
def Interrupter.imanWord (i : Interrupter) : Word := flag i.ip 0 ||| flag i.ie 1

/-- A write of IMAN: IP is write-1-to-clear, IE is plain (R281). -/
def Interrupter.writeIman (i : Interrupter) (v : Word) : Interrupter := { i with ip := w1c i.ip (bit v 0), ie := bit v 1 }

/-- The read value of IMOD (R282). -/
def Interrupter.imodWord (i : Interrupter) : Word := (i.imodc ++ i.imodi : BitVec (16 + 16))

/-- A write of IMOD (R282). -/
def Interrupter.writeImod (i : Interrupter) (v : Word) : Interrupter :=
  { i with imodi := field v 0 16, imodc := field v 16 16 }

/-- The read value of the low half of ERDP (R285). -/
def Interrupter.erdpLoWord (i : Interrupter) : Word :=
  (field i.erdpPtr 0 28 ++ BitVec.ofBool i.ehb ++ i.desi : BitVec (28 + 1 + 3))

/-- A write of the low half of ERDP: EHB is write-1-to-clear (R285). -/
def Interrupter.writeErdpLo (i : Interrupter) (v : Word) : Interrupter :=
  { i with desi := field v 0 3, erdpPtr := setPtr4Lo i.erdpPtr v, ehb := w1c i.ehb (bit v 3) }

/-- The bits an interrupt sets in its interrupter: IMAN.IP and ERDP.EHB (R431). -/
def Interrupter.raised (i : Interrupter) : Interrupter := { i with ip := true, ehb := true }

end Sys2Proof.Machine
end

