-- ==== Sys2Proof/Machine/Ops.lean ====
section
/-! DEFINITION. The named operations over State that the meanings share: the slot table, the draws, guest memory, the
device capability, event delivery and interrupts, the address allocator, and the execution of one consumed TRB. -/

namespace Sys2Proof.Machine

/-- What a meaning answers. -/
abbrev Out := Host.Outcome State Fault Refusal

/-- Apply a function to the next state of an outcome. -/
def mapNext (f : State → State) : Out → Out
  | .next s => .next (f s)
  | .fault r => .fault r
  | .refused r => .refused r

/-! ### The slot table and a slot's endpoints (R45-R48) -/

/-- `slot_tab[sid]` for a usable slot id; none for id 0, for ids above MAX_SLOTS and for an empty entry (R321, R371). -/
def State.slotAt (s : State) (sid : Nat) : Option DeviceSlot :=
  if 1 ≤ sid ∧ sid ≤ s.cfg.maxSlots then s.slotTab.getD sid none else none

/-- `slot_tab[sid] <- o`. -/
def State.setSlot (s : State) (sid : Nat) (o : Option DeviceSlot) : State := { s with slotTab := s.slotTab.set sid o }

/-- `e in 1..31` (R374, C2). -/
def State.epOk (s : State) (e : Nat) : Bool := decide (1 ≤ e) && decide (e < s.cfg.numEp)

/-- The state of endpoint e. -/
def DeviceSlot.epState (d : DeviceSlot) (e : Nat) : EpState := (d.eps.getD e EpContext.fresh).state

/-- `S.ep[e].state <- st`. -/
def DeviceSlot.setEpState (d : DeviceSlot) (e : Nat) (st : EpState) : DeviceSlot :=
  { d with eps := d.eps.modify e (fun c => { c with state := st }) }

/-- The transfer ring of endpoint e. -/
def DeviceSlot.ring (d : DeviceSlot) (e : Nat) : Ring := d.rings.getD e Ring.fresh

/-- `S.ring[e] <- r`. -/
def DeviceSlot.setRing (d : DeviceSlot) (e : Nat) (r : Ring) : DeviceSlot := { d with rings := d.rings.set e r }

/-- `S.draining[e]` (R52). -/
def DeviceSlot.isDraining (d : DeviceSlot) (e : Nat) : Bool := d.draining.getD e false

/-- `S.draining[e] <- v`. -/
def DeviceSlot.setDraining (d : DeviceSlot) (e : Nat) (v : Bool) : DeviceSlot :=
  { d with draining := d.draining.set e v }

/-- `for i in lo..31: S.ep[i].state <- Disabled; S.ring[i].init <- false` (R324, R342). -/
def DeviceSlot.disableFrom (d : DeviceSlot) (lo : Nat) : DeviceSlot :=
  { d with
    eps := d.eps.mapIdx (fun i c => if lo ≤ i then { c with state := .disabled } else c)
    rings := d.rings.mapIdx (fun i r => if lo ≤ i then { r with init := false } else r) }

/-! ### Draws (R14; log 11) -/

/-- The value a read of MFINDEX draws (R36). -/
def State.drawMfindex (s : State) : BitVec 14 × State :=
  match s.draws.mfindex with
  | v :: r => (v, { s with draws := { s.draws with mfindex := r } })
  | [] => (Config.freeMfindex s.draws.count, { s with draws := { s.draws with count := s.draws.count + 1 } })

/-- `dev.speed()` (R370, R400). -/
def State.callSpeed (s : State) (dev : Nat) : Speed × State :=
  let s1 := { s with calls := s.calls ++ [DevCall.speed dev] }
  match s.draws.speed with
  | v :: r => (v, { s1 with draws := { s.draws with speed := r } })
  | [] => (Config.freeSpeed s.draws.count, { s1 with draws := { s.draws with count := s.draws.count + 1 } })

/-- The answer to a call of `handle_control` or `handle_transfer` (R370). -/
def State.callDevice (s : State) (call : DevCall) : DevAnswer × State :=
  let s1 := { s with calls := s.calls ++ [call] }
  match s.draws.device with
  | v :: r => (v, { s1 with draws := { s.draws with device := r } })
  | [] => (Config.freeDevAnswer s.draws.count, { s1 with draws := { s.draws with count := s.draws.count + 1 } })

/-- `dev.reset()` (R342, R370). -/
def State.callReset (s : State) (dev : Nat) : State := { s with calls := s.calls ++ [DevCall.reset dev] }

/-- Whether the memory collaborator fails the next access (R96, D49; log 9). -/
def State.drawMemFault (s : State) : Bool × State :=
  match s.draws.memFault with
  | v :: r => (v, { s with draws := { s.draws with memFault := r } })
  | [] => (Config.freeMemFault s.draws.count, { s with draws := { s.draws with count := s.draws.count + 1 } })

/-- `MemRead(addr, n)`: none is MemFault (R14, R96; log 8, 9). -/
def State.memRead (s : State) (a : Addr) (n : Nat) : Option (List Byte) × State :=
  let d := s.drawMemFault
  if d.1 then (none, d.2) else (memGetN s.mem a n, d.2)

/-- `MemWrite(addr, n, v)`: false is MemFault, and then nothing is written (R14, R96; log 8, 9, 10). -/
def State.memWrite (s : State) (a : Addr) (bytes : List Byte) : Bool × State :=
  let d := s.drawMemFault
  if d.1 then (false, d.2)
  else if (memGetN s.mem a bytes.length).isSome then (true, { d.2 with mem := memPutN s.mem a bytes })
  else (false, d.2)

/-! ### Event delivery and interrupts: what this hardware has in place of exceptions (R420, R431, R437) -/

/-- `post_event(n, e)` (R221): the state, and whether the verdict is Posted. -/
def State.postEvent (s : State) (n : Nat) (e : Trb) : State × Bool :=
  if n < s.cfg.maxIntrs then
    match (s.evRings.getD n EventRing.fresh).post e with
    | some r => ({ s with evRings := s.evRings.set n r }, true)
    | none => (s, false)
  else (s, false)

/-- `raise_interrupt(n)` (R431). -/
def State.raiseInterrupt (s : State) (n : Nat) : State :=
  { s with intrs := s.intrs.modify n Interrupter.raised, usbsts := { s.usbsts with eint := true } }

/-- `irq[n] = IP and IE and INTE` (R50). -/
def State.irq (s : State) (n : Nat) : Bool :=
  let i := s.intrs.getD n Interrupter.fresh
  i.ip && i.ie && s.usbcmd.inte

/-- `complete(cmd_addr, slot_id, code, extra)` (R214). -/
def State.complete (s : State) (a : Addr) (slot : BitVec 8) (code : BitVec 8) (extra : BitVec 24) : State × Bool :=
  s.postEvent 0 (createCompletionEvent a slot code extra)

/-- `port_change(p)` (R402). -/
def State.portChange (s : State) (p : Nat) : State :=
  let r := { s with usbsts := { s.usbsts with pcd := true } }.postEvent 0 (createPortStatusChangeEvent p)
  if r.2 then r.1.raiseInterrupt 0 else r.1

/-! ### The device-address allocator (R406, R407) -/

/-- The lowest free address of 1..NUM_ADDR, if any (R406). -/
def State.freeAddr? (s : State) : Option Nat :=
  (List.range' 1 s.cfg.numAddr).find? (fun a => !s.addrUsed.getD a true)

/-- `allocate_address()` (R406). -/
def State.allocateAddress (s : State) : Option (Nat × State) :=
  s.freeAddr?.map (fun a => (a, { s with addrUsed := s.addrUsed.set a true }))

/-- `free_address(a)` (R407). -/
def State.freeAddress (s : State) (a : Nat) : State :=
  if 1 ≤ a ∧ a ≤ s.cfg.numAddr then { s with addrUsed := s.addrUsed.set a false } else s

/-! ### The execution of one consumed TRB -/

/-- What a command answers: `(slot_id, code, extra)` (R321). -/
structure CmdResult where
  slot : BitVec 8
  code : BitVec 8
  extra : BitVec 24
deriving DecidableEq, Repr

/-- What a transfer TRB answers: `(code, residual)` (R384). -/
structure XferResult where
  code : BitVec 8
  residual : BitVec 24
deriving DecidableEq, Repr

/-- The verdict of R221 as a result. -/
def postResult (posted : Bool) : Result := if posted then .posted else .dropped

/-- One iteration of the drain of the consumer `unit` for the TRB at its cursor: `next` moves the cursor past the TRB
(R204), the TRB has its effect, and one event with the TRB's address is posted on interrupter 0 (R320, R374). The
verdict of the posting is the result. -/
def State.runTrb (s : State) (onCommand : State → State × CmdResult)
    (onTransfer : Nat → Nat → DeviceSlot → State → State × XferResult) : Out :=
  match s.unit with
  | .command =>
    let a := s.cmdRing.addr s.cmdRing.deq
    let e := onCommand { s with cmdRing := s.cmdRing.advance }
    let p := e.1.complete a e.2.slot e.2.code e.2.extra
    .next { p.1 with result := postResult p.2 }
  | .transfer sid ep =>
    match s.slotAt sid with
    | none => .fault .noConsumer
    | some d =>
      let a := (d.ring ep).addr (d.ring ep).deq
      let d1 := d.setRing ep (d.ring ep).advance
      let e := onTransfer sid ep d1 (s.setSlot sid (some d1))
      let p := e.1.postEvent 0
        (createTransferEvent a e.2.code e.2.residual (BitVec.ofNat 8 sid) (BitVec.ofNat 5 ep))
      .next { p.1 with result := postResult p.2 }

end Sys2Proof.Machine
end

