-- ==== Sys2Proof/Machine/Operands.lean ====
section
/-! DEFINITION. The operand forms: lanes of an MMIO access (R82), the register sets a port, interrupter or doorbell
number names (R84), the Slot ID and Endpoint ID of a command (R321, R333), and the TRBs that a ring does not execute
(R346, R391). -/

namespace Sys2Proof.Machine

/-- The value a read of a lane returns (R82). -/
def laneValue : Lane → Word → BitVec 64
  | .full, v => v.setWidth 64
  | .half k, v => (field v (16 * k.val) 16).setWidth 64
  | .byte k, v => (field v (8 * k.val) 8).setWidth 64

/-- One access to a register whose read has no effect (R82, R85): a read returns its lane of the register's value, a
32-bit write has the register's effect, a narrower write has none. -/
def accessRegister (a : Access) (value : Word) (write : Word → State → State) (s : State) : Out :=
  match a with
  | .read lane => .next { s with result := .value (laneValue lane value) }
  | .write v => .next { write v s with result := .none }
  | .writeNarrow _ => .next { s with result := .none }

/-- A register whose writes are ignored (R253, R266). -/
def ignoreWrite (_ : Word) (s : State) : State := s

/-- The register set of port p. -/
def State.port (s : State) (p : Nat) : Port := s.ports.getD p Port.fresh

/-- Update the register set of port p. -/
def State.modifyPort (s : State) (p : Nat) (f : Port → Port) : State := { s with ports := s.ports.modify p f }

/-- The register set of interrupter n. -/
def State.intr (s : State) (n : Nat) : Interrupter := s.intrs.getD n Interrupter.fresh

/-- Update the register set of interrupter n. -/
def State.modifyIntr (s : State) (n : Nat) (f : Interrupter → Interrupter) : State :=
  { s with intrs := s.intrs.modify n f }

/-- Event ring n. -/
def State.evRing (s : State) (n : Nat) : EventRing := s.evRings.getD n EventRing.fresh

/-- Replace event ring n. -/
def State.setEvRing (s : State) (n : Nat) (r : EventRing) : State := { s with evRings := s.evRings.set n r }

/-- An access to a register of port p: out of range for p >= MAX_PORTS, read 0 and write nothing (R84). -/
def accessPort (p : Nat) (a : Access) (value : Port → Word) (write : Word → State → State) (s : State) : Out :=
  if p < s.cfg.maxPorts then accessRegister a (value (s.port p)) write s else accessRegister a 0 ignoreWrite s

/-- An access to a register of interrupter n: out of range for n >= MAX_INTRS (R84). -/
def accessIntr (n : Nat) (a : Access) (value : Interrupter → Word) (write : Word → State → State) (s : State) : Out :=
  if n < s.cfg.maxIntrs then accessRegister a (value (s.intr n)) write s else accessRegister a 0 ignoreWrite s

/-- A command of types 10..17 (R321): Slot Not Enabled for an absent slot, else the slot's `handle_command`, which
answers `(code, extra)`. -/
def slotCommand (t : Trb) (handle : Nat → DeviceSlot → State → State × BitVec 8 × BitVec 24) (s : State) :
    State × CmdResult :=
  match s.slotAt (slotId t).toNat with
  | none => (s, ⟨slotId t, ccSlotNotEnabled, 0⟩)
  | some d =>
    let r := handle (slotId t).toNat d s
    (r.1, ⟨slotId t, r.2.1, r.2.2⟩)

/-- A command that names an endpoint (R333, R336, R339): TRB Error for an id outside 1..31, else the slot it makes. -/
def endpointCommand (t : Trb) (f : Nat → DeviceSlot → DeviceSlot) (sid : Nat) (d : DeviceSlot) (s : State) :
    State × BitVec 8 × BitVec 24 :=
  if s.epOk (endpointId t).toNat then (s.setSlot sid (some (f (endpointId t).toNat d)), ccSuccess, 0)
  else (s, ccTrbError, 0)

/-- A TRB the command ring does not execute: TRB Error with the TRB's Slot ID, no state change (R345, R346). -/
def commandTrbError (slot : BitVec 8) (s : State) : State × CmdResult := (s, ⟨slot, ccTrbError, 0⟩)

/-- A TRB a transfer ring does not execute: TRB Error, no device call (R389, R391). -/
def transferTrbError (_ _ : Nat) (_ : DeviceSlot) (s : State) : State × XferResult := (s, ⟨ccTrbError, 0⟩)

end Sys2Proof.Machine
end

