-- ==== Sys2Proof/Machine/CapRegs.lean ====
section
/-! DEFINITION. The Capability bank (R252, R253) and the accesses that name no register (R84, R250). -/

namespace Sys2Proof.Machine

/-- CAPLENGTH/HCIVERSION (R151, R252). -/
def execCaplengthHciversion (a : Access) (s : State) : Out := accessRegister a (caplengthWord s.cfg) ignoreWrite s

/-- HCSPARAMS1 (R150, R252). -/
def execHcsparams1 (a : Access) (s : State) : Out := accessRegister a (hcsparams1Word s.cfg) ignoreWrite s

/-- HCSPARAMS2 (R152, R252). -/
def execHcsparams2 (a : Access) (s : State) : Out := accessRegister a (hcsparams2Word s.cfg) ignoreWrite s

/-- HCSPARAMS3 (R153, R252). -/
def execHcsparams3 (a : Access) (s : State) : Out := accessRegister a hcsparams3Word ignoreWrite s

/-- HCCPARAMS1 (R154, R252). -/
def execHccparams1 (a : Access) (s : State) : Out := accessRegister a hccparams1Word ignoreWrite s

/-- DBOFF (R155, R252). -/
def execDboff (a : Access) (s : State) : Out := accessRegister a (dboffWord s.cfg) ignoreWrite s

/-- RTSOFF (R156, R252). -/
def execRtsoff (a : Access) (s : State) : Out := accessRegister a (rtsoffWord s.cfg) ignoreWrite s

/-- OUT_OF_RANGE: a read returns 0, a write is a no-op (R82, R84, R250). -/
def execOutOfRange (a : MmioAccess) (s : State) : Out :=
  .next { s with result := if a.isWrite then .none else .value 0 }

end Sys2Proof.Machine
end

