-- ==== Sys2Proof/Machine/Commands.lean ====
section
/-! DEFINITION. The command TRBs, types 9..23 (R321-R347). Each meaning says what the command does on the command ring;
on a transfer ring it is consumed with TRB Error (R391). -/

namespace Sys2Proof.Machine

/-- Whether entry sid of the slot table is an attached slot still Disabled (R322). -/
def State.slotIsDisabled (s : State) (sid : Nat) : Bool :=
  match s.slotAt sid with
  | some d => decide (d.ctx.state = .disabled)
  | none => false

/-- The slot Enable Slot enables: the lowest attached slot still Disabled (R322). -/
def State.slotToEnable (s : State) : Option Nat := (List.range' 1 s.cfg.maxSlots).find? s.slotIsDisabled

/-- A Device Slot with its slot state changed. -/
def DeviceSlot.setState (d : DeviceSlot) (st : SlotState) : DeviceSlot := { d with ctx := { d.ctx with state := st } }

/-- A Device Slot with its device address changed. -/
def DeviceSlot.setAddress (d : DeviceSlot) (a : Nat) : DeviceSlot :=
  { d with ctx := { d.ctx with deviceAddress := a } }

/-- `if S.ctx.device_address != 0: free_address(S.ctx.device_address)` (R324, R342, R403). -/
def State.freeSlotAddress (s : State) (d : DeviceSlot) : State :=
  if d.ctx.deviceAddress ≠ 0 then s.freeAddress d.ctx.deviceAddress else s

/-- `enable_slot(t)` (R322). -/
def enableSlot (s : State) : State × CmdResult :=
  match s.slotToEnable with
  | none => (s, ⟨0, ccNoSlotsAvailable, 0⟩)
  | some sid =>
    match s.slotAt sid with
    | some d => (s.setSlot sid (some (d.setState .default)), ⟨BitVec.ofNat 8 sid, ccSuccess, 0⟩)
    | none => (s, ⟨0, ccNoSlotsAvailable, 0⟩)

/-- Disable Slot on Device Slot d (R324). -/
def disableSlot (sid : Nat) (d : DeviceSlot) (s : State) : State × BitVec 8 × BitVec 24 :=
  if d.ctx.state = .disabled then (s, ccSlotNotEnabled, 0)
  else
    let d1 := { ((d.setAddress 0).setState .disabled).disableFrom 1 with ctlResp := [] }
    ((s.freeSlotAddress d).setSlot sid (some d1), ccSuccess, 0)

/-- Address Device on Device Slot d (R326, C3). -/
def addressDevice (sid : Nat) (d : DeviceSlot) (s : State) : State × BitVec 8 × BitVec 24 :=
  if d.ctx.state = .addressed ∨ d.ctx.state = .configured then (s, ccContextStateError, 0)
  else
    match s.allocateAddress with
    | none => (s, ccNoSlotsAvailable, 0)
    | some (a, s1) =>
      let d1 := ((d.setAddress a).setState .addressed).setEpState 1 .running
      (s1.setSlot sid (some d1), ccSuccess, BitVec.ofNat 24 a)

/-- `for i in 2..31: if S.ep[i].state = Disabled: S.ep[i].state <- Running` (R329). -/
def DeviceSlot.enableEndpoints (d : DeviceSlot) : DeviceSlot :=
  { d with eps := d.eps.mapIdx (fun i c => if 2 ≤ i ∧ c.state = .disabled then { c with state := .running } else c) }

/-- Configure Endpoint on Device Slot d (R329). -/
def configureEndpoint (sid : Nat) (d : DeviceSlot) (s : State) : State × BitVec 8 × BitVec 24 :=
  let d1 := if d.ctx.state = .addressed then d.setState .configured else d
  let d2 := if d1.ctx.state = .configured then d1.enableEndpoints else d1
  (s.setSlot sid (some d2), ccSuccess, 0)

/-- Evaluate Context (R331). -/
def evaluateContext (_sid : Nat) (_d : DeviceSlot) (s : State) : State × BitVec 8 × BitVec 24 := (s, ccSuccess, 0)

/-- The endpoint states Reset Endpoint makes (R332, R333). -/
def EpState.afterReset : EpState → EpState
  | .running => .halted
  | .halted => .running
  | .error => .running
  | .disabled => .disabled
  | .stopped => .stopped

/-- The endpoint states Stop Endpoint makes (R332, R336). -/
def EpState.afterStop : EpState → EpState
  | .running => .stopped
  | .stopped => .running
  | .disabled => .disabled
  | .halted => .halted
  | .error => .error

/-- Reset Endpoint on endpoint e (R333). -/
def resetEndpoint (e : Nat) (d : DeviceSlot) : DeviceSlot := d.setEpState e (d.epState e).afterReset

/-- Stop Endpoint on endpoint e (R336). -/
def stopEndpoint (e : Nat) (d : DeviceSlot) : DeviceSlot := d.setEpState e (d.epState e).afterStop

/-- Set TR Dequeue Pointer on endpoint e (R339). -/
def setTrDequeuePointer (t : Trb) (e : Nat) (d : DeviceSlot) : DeviceSlot :=
  d.setRing e ((d.ring e).setDequeuePtr (ptr4 (field t.parameter 4 60)) (bit t.parameter 0))

/-- Reset Device on Device Slot d (R342). -/
def resetDevice (sid : Nat) (d : DeviceSlot) (s : State) : State × BitVec 8 × BitVec 24 :=
  if d.ctx.state = .disabled then (s, ccSlotNotEnabled, 0)
  else
    let d1 := { ((d.setAddress 0).setState .default).disableFrom 2 with ctlResp := [] }
    (((s.callReset d.dev).freeSlotAddress d).setSlot sid (some d1), ccSuccess, 0)

/-- No Op Command: Success with Slot ID 0 (R344). -/
def commandNoOp (s : State) : State × CmdResult := (s, ⟨0, ccSuccess, 0⟩)

/-- ENABLE_SLOT (R322). -/
def execEnableSlot (_t : Trb) (s : State) : Out := s.runTrb enableSlot transferTrbError

/-- DISABLE_SLOT (R324). -/
def execDisableSlot (t : Trb) (s : State) : Out := s.runTrb (slotCommand t disableSlot) transferTrbError

/-- ADDRESS_DEVICE (R326). -/
def execAddressDevice (t : Trb) (s : State) : Out := s.runTrb (slotCommand t addressDevice) transferTrbError

/-- CONFIGURE_ENDPOINT (R329). -/
def execConfigureEndpoint (t : Trb) (s : State) : Out := s.runTrb (slotCommand t configureEndpoint) transferTrbError

/-- EVALUATE_CONTEXT (R331). -/
def execEvaluateContext (t : Trb) (s : State) : Out := s.runTrb (slotCommand t evaluateContext) transferTrbError

/-- RESET_ENDPOINT (R333). -/
def execResetEndpoint (t : Trb) (s : State) : Out :=
  s.runTrb (slotCommand t (endpointCommand t resetEndpoint)) transferTrbError

/-- STOP_ENDPOINT (R336). -/
def execStopEndpoint (t : Trb) (s : State) : Out :=
  s.runTrb (slotCommand t (endpointCommand t stopEndpoint)) transferTrbError

/-- SET_TR_DEQUEUE_POINTER (R339). -/
def execSetTrDequeuePointer (t : Trb) (s : State) : Out :=
  s.runTrb (slotCommand t (endpointCommand t (setTrDequeuePointer t))) transferTrbError

/-- RESET_DEVICE (R342). -/
def execResetDevice (t : Trb) (s : State) : Out := s.runTrb (slotCommand t resetDevice) transferTrbError

/-- FORCE_EVENT: TRB Error (R345). -/
def execForceEvent (t : Trb) (s : State) : Out := s.runTrb (commandTrbError (slotId t)) transferTrbError

/-- NEGOTIATE_BANDWIDTH: TRB Error (R345). -/
def execNegotiateBandwidth (t : Trb) (s : State) : Out := s.runTrb (commandTrbError (slotId t)) transferTrbError

/-- SET_LATENCY_TOLERANCE_VALUE: TRB Error (R345). -/
def execSetLatencyToleranceValue (t : Trb) (s : State) : Out :=
  s.runTrb (commandTrbError (slotId t)) transferTrbError

/-- GET_PORT_BANDWIDTH: TRB Error (R345). -/
def execGetPortBandwidth (t : Trb) (s : State) : Out := s.runTrb (commandTrbError (slotId t)) transferTrbError

/-- FORCE_HEADER: TRB Error (R345). -/
def execForceHeader (t : Trb) (s : State) : Out := s.runTrb (commandTrbError (slotId t)) transferTrbError

/-- NOOP_COMMAND (R344). -/
def execNoopCommand (_t : Trb) (s : State) : Out := s.runTrb commandNoOp transferTrbError

end Sys2Proof.Machine
end

