-- ==== Sys2Proof/Machine/Doorbells.lean ====
section
/-! DEFINITION. The Doorbell bank and doorbell dispatch (R290, R291, R371-R374, R380). A doorbell write starts a drain;
the drain's TRBs are then consumed one a step (log 4). -/

namespace Sys2Proof.Machine

/-- A drain starts under the controller lock; it takes with it the second half of the access, if there is one. -/
def startLocked (w : Work) (s : State) : State := { s with locked := some ⟨w, s.cont⟩, cont := none }

/-- A drain starts that does not hold the lock between its steps (R380). -/
def startTask (w : Work) (s : State) : State := { s with tasks := s.tasks ++ [⟨w, s.cont⟩], cont := none }

/-- `doorbell_command()` up to its first `next` (R320, R372). -/
def doorbellCommand (s : State) : State :=
  let s1 :=
    if s.ctrl = .running ∧ s.cmdRing.init = true ∧ (s.cmdState = .stopped ∨ s.cmdState = .aborted) then
      { s with cmdState := .running }
    else s
  if s1.ctrl = .running ∧ s1.cmdState = .running then startLocked (.cmdDrain false) s1 else s1

/-- `ring_ep(e)` up to its first check (R374, R380 step 0). -/
def ringEp (sid e : Nat) (d : DeviceSlot) (s : State) : State :=
  if s.epOk e then
    if s.cfg.atomicTransferDrain then startLocked (.xferDrain sid d.serial e false) s
    else if d.isDraining e then s
    else startTask (.xferDrain sid d.serial e false) (s.setSlot sid (some (d.setDraining e true)))
  else s

/-- `ring_doorbell(i, target)` (R371). -/
def ringDoorbell (i : Nat) (target : BitVec 8) (s : State) : State :=
  if i = 0 then doorbellCommand s
  else
    match s.slotAt i with
    | none => s
    | some d => ringEp i target.toNat d s

/-- `Write32(DB[i], v)` (R290). -/
def writeDb (i : Nat) (v : Word) (s : State) : State :=
  ringDoorbell i (field v 0 8) { s with db := s.db.set i (field v 0 8) }

/-- DB[i] (R290, R291): out of range for i > MAX_SLOTS (R84). -/
def execDb (i : Nat) (a : Access) (s : State) : Out :=
  if i ≤ s.cfg.maxSlots then accessRegister a ((s.db.getD i 0).setWidth 32) (writeDb i) s
  else accessRegister a 0 ignoreWrite s

end Sys2Proof.Machine
end

