-- ==== Sys2Proof/Machine/Events.lean ====
section
/-! DEFINITION. Event TRBs (types 32..39) and malformed TRBs found on the command ring or on a transfer ring: consumed
with TRB Error (R119, R321, R346, R391). The core builds its own events with the constructors of the codec. -/

namespace Sys2Proof.Machine

/-- TRANSFER_EVENT on a ring (R346, R391). -/
def execTransferEvent (t : Trb) (s : State) : Out := s.runTrb (commandTrbError (slotId t)) transferTrbError

/-- COMMAND_COMPLETION_EVENT on a ring (R346, R391). -/
def execCommandCompletionEvent (t : Trb) (s : State) : Out := s.runTrb (commandTrbError (slotId t)) transferTrbError

/-- PORT_STATUS_CHANGE_EVENT on a ring (R346, R391). -/
def execPortStatusChangeEvent (t : Trb) (s : State) : Out := s.runTrb (commandTrbError (slotId t)) transferTrbError

/-- BANDWIDTH_REQUEST_EVENT on a ring (R346, R391). -/
def execBandwidthRequestEvent (t : Trb) (s : State) : Out := s.runTrb (commandTrbError (slotId t)) transferTrbError

/-- DOORBELL_EVENT on a ring (R346, R391). -/
def execDoorbellEvent (t : Trb) (s : State) : Out := s.runTrb (commandTrbError (slotId t)) transferTrbError

/-- HOST_CONTROLLER_EVENT on a ring (R346, R391). -/
def execHostControllerEvent (t : Trb) (s : State) : Out := s.runTrb (commandTrbError (slotId t)) transferTrbError

/-- DEVICE_NOTIFICATION_EVENT on a ring (R346, R391). -/
def execDeviceNotificationEvent (t : Trb) (s : State) : Out := s.runTrb (commandTrbError (slotId t)) transferTrbError

/-- MFINDEX_WRAP_EVENT on a ring (R346, R391). -/
def execMfindexWrapEvent (t : Trb) (s : State) : Out := s.runTrb (commandTrbError (slotId t)) transferTrbError

/-- MALFORMED_TRB (R321, R391): on the command ring the Slot ID is the raw `control[31:24]`. -/
def execMalformedTrb (b : Raw) (s : State) : Out :=
  s.runTrb (commandTrbError (field (rawControl b) 24 8)) transferTrbError

end Sys2Proof.Machine
end

