-- ==== Sys2Proof/Machine/HostOps.lean ====
section
/-! DEFINITION. The host interface (R410): CMD, XFER, XINIT, EVT, ATTACH and DETACH. -/

namespace Sys2Proof.Machine

/-- CMD b: `queue` on the command ring (R203). -/
def execCmd (b : Raw) (s : State) : Out :=
  let q := s.cmdRing.queue b
  .next { s with cmdRing := q.1, result := q.2 }

/-- XFER slot ep b: `queue` on a transfer ring (R203, R232). -/
def execXfer (sid e : Nat) (b : Raw) (s : State) : Out :=
  match s.slotAt sid with
  | none => .next { s with result := .rejected }
  | some d =>
    if s.epOk e then
      let q := (d.ring e).queue b
      .next { s.setSlot sid (some (d.setRing e q.1)) with result := q.2 }
    else .next { s with result := .rejected }

/-- XINIT slot ep base size: `init` of a transfer ring (R201, R230). -/
def execXinit (sid e : Nat) (base : Addr) (size : Word) (s : State) : Out :=
  match s.slotAt sid with
  | none => .next { s with result := .none }
  | some d =>
    if s.epOk e then
      match Ring.initialise base size.toNat with
      | some r => .next { s.setSlot sid (some (d.setRing e r)) with result := .initialised }
      | none => .next { s with result := .initRejected }
    else .next { s with result := .none }

/-- EVT n: the guest consumes the next event of interrupter n (R224; log 21 for n >= MAX_INTRS). -/
def execEvt (n : Nat) (s : State) : Out :=
  if n < s.cfg.maxIntrs then
    let c := (s.evRing n).consume
    .next { s.setEvRing n c.1 with result := c.2 }
  else .next { s with result := .noEvent }

/-- The lowest free slot index from 1 on (R400). -/
def State.freeSlot? (s : State) : Option Nat :=
  (List.range' 1 s.cfg.maxSlots).find? (fun i => (s.slotTab.getD i none).isNone)

/-- A new Device Slot (R46-R48, R400). -/
def DeviceSlot.create (c : Config) (port dev serial : Nat) (sp : Speed) : DeviceSlot where
  port := port
  dev := dev
  serial := serial
  ctx := ⟨0, 0, .disabled, sp⟩
  eps := List.replicate c.numEp EpContext.fresh
  rings := List.replicate c.numEp Ring.fresh
  ctlResp := []
  draining := List.replicate c.numEp false

/-- ATTACH port dev (R400). -/
def execAttach (port dev : Nat) (s : State) : Out :=
  if s.cfg.maxPorts ≤ port ∨ (s.port port).ccs = true then .next { s with result := .portUnavailable }
  else
    match s.freeSlot? with
    | none => .next { s with result := .noFreeSlots }
    | some sid =>
      let r := s.callSpeed dev
      let s1 := { r.2.setSlot sid (some (DeviceSlot.create s.cfg port dev (s.serial + 1) r.1)) with serial := s.serial + 1 }
      let s2 := (s1.modifyPort port (fun q => q.attach r.1 sid)).portChange port
      .next { s2 with result := .slot sid }

/-- DETACH slot (R403). -/
def execDetach (sid : Nat) (s : State) : Out :=
  match s.slotAt sid with
  | none => .next { s with result := .none }
  | some d =>
    let s1 := ((s.freeSlotAddress d).setSlot sid none).modifyPort d.port Port.detach
    .next { s1.portChange d.port with result := .none }

end Sys2Proof.Machine
end

