-- ==== Sys2Proof/Machine/OpRegs.lean ====
section
/-! DEFINITION. The Operational bank (R260-R270) and the controller reset (R461-R463). -/

namespace Sys2Proof.Machine

/-! ### Controller reset -/

/-- `slot_context_reset(S)` (R463). -/
def DeviceSlot.hcrst (d : DeviceSlot) : DeviceSlot :=
  { d with
    ctx := { d.ctx with state := .disabled, deviceAddress := 0 }
    eps := d.eps.map (fun c => { c with state := .disabled })
    rings := d.rings.map (fun r => { r with init := false })
    ctlResp := []
    draining := d.draining.map (fun _ => false) }

/-- What HCRST does to an event ring (R41, R461; the guest cursor: log 15). -/
def EventRing.hcrst (e : EventRing) : EventRing :=
  { e with segs := [], eseg := 0, eidx := 0, pcs := true, dseg := 0, didx := 0 }

/-- `controller_reset()` (R461, R462). -/
def controllerReset (s : State) : State :=
  { s with
    ctrl := .halted
    crcrPtr := 0
    crcrRcs := false
    dcbaap := 0
    usbcmd := ⟨false, false, false, false⟩
    usbsts := ⟨false, false, false, false⟩
    dnctrl := 0
    maxSlotsEn := 0
    cmdRing := Ring.fresh
    cmdState := .stopped
    intrs := s.intrs.map (fun _ => Interrupter.fresh)
    evRings := s.evRings.map EventRing.hcrst
    db := s.db.map (fun _ => 0)
    ports := s.ports.map Port.hcrst
    slotTab := s.slotTab.map (fun o => o.map DeviceSlot.hcrst)
    addrUsed := s.addrUsed.map (fun _ => false) }

/-! ### USBCMD and USBSTS -/

/-- `run_stop(rs)` (R262). -/
def runStop (rs : Bool) (s : State) : State :=
  { s with usbcmd := { s.usbcmd with rs := rs }, ctrl := if rs then .running else .halted }

/-- `Write32(USBCMD, v)` (R261). -/
def writeUsbcmd (v : Word) (s : State) : State :=
  if bit v 1 then controllerReset s
  else runStop (bit v 0) { s with usbcmd := { s.usbcmd with inte := bit v 2, hsee := bit v 3, ewe := bit v 10 } }

/-- `Write32(USBSTS, v)` (R265). -/
def writeUsbsts (v : Word) (s : State) : State := { s with usbsts := s.usbsts.write v }

/-- `Write32(DNCTRL, v)` (R266). -/
def writeDnctrl (v : Word) (s : State) : State := { s with dnctrl := field v 0 16 }

/-! ### CRCR -/

/-- `stop_or_abort(cs, ca)` (R269): the event is posted, no interrupt is raised (V93). -/
def stopOrAbort (ca : Bool) (s : State) : State :=
  if s.cmdState = .running then
    ({ s with cmdState := if ca then .aborted else .stopped }.complete
      (s.cmdRing.addr s.cmdRing.deq) 0 ccCommandRingStopped 0).1
  else s

/-- The ring initialisation of a CRCR pointer write (R202, R268). -/
def crcrInit (s : State) : State :=
  if ptr6 s.crcrPtr ≠ 0 ∧ (s.cmdRing.init = false ∨ s.cmdRing.empty = true) then
    match Ring.initialise (ptr6 s.crcrPtr) s.cfg.cmdRingSize with
    | some r => { s with cmdRing := r, cmdState := .running }
    | none => s
  else s

/-- `Write32(CRCR low, v)` (R268). -/
def writeCrcrLo (v : Word) (s : State) : State :=
  if bit v 1 || bit v 2 then stopOrAbort (bit v 2) s
  else crcrInit { s with crcrPtr := setPtr6Lo s.crcrPtr v, crcrRcs := bit v 0 }

/-- `Write32(CRCR high, v)` (R268). -/
def writeCrcrHi (v : Word) (s : State) : State := crcrInit { s with crcrPtr := setPtr6Hi s.crcrPtr v }

/-! ### The instructions -/

/-- USBCMD (R260, R261). -/
def execUsbcmd (a : Access) (s : State) : Out := accessRegister a s.usbcmd.word writeUsbcmd s

/-- USBSTS (R264, R265). -/
def execUsbsts (a : Access) (s : State) : Out := accessRegister a (usbstsWord s.ctrl s.usbsts) writeUsbsts s

/-- PAGESIZE (R159, R266). -/
def execPagesize (a : Access) (s : State) : Out := accessRegister a 1 ignoreWrite s

/-- DNCTRL (R266). -/
def execDnctrl (a : Access) (s : State) : Out := accessRegister a (s.dnctrl.setWidth 32) writeDnctrl s

/-- CRCR_LO (R267, R268). -/
def execCrcrLo (a : Access) (s : State) : Out := accessRegister a (crcrLoWord s.cmdState) writeCrcrLo s

/-- CRCR_HI (R267, R268). -/
def execCrcrHi (a : Access) (s : State) : Out := accessRegister a 0 writeCrcrHi s

/-- DCBAAP_LO (R270). -/
def execDcbaapLo (a : Access) (s : State) : Out :=
  accessRegister a (lo32 (ptr6 s.dcbaap)) (fun v s => { s with dcbaap := setPtr6Lo s.dcbaap v }) s

/-- DCBAAP_HI (R270). -/
def execDcbaapHi (a : Access) (s : State) : Out :=
  accessRegister a (hi32 (ptr6 s.dcbaap)) (fun v s => { s with dcbaap := setPtr6Hi s.dcbaap v }) s

/-- CONFIG (R270). -/
def execConfig (a : Access) (s : State) : Out :=
  accessRegister a (s.maxSlotsEn.setWidth 32) (fun v s => { s with maxSlotsEn := field v 0 8 }) s

end Sys2Proof.Machine
end

