-- ==== Sys2Proof/Machine/PortRegs.lean ====
section
/-! DEFINITION. The root-hub port registers (R271-R274). -/

namespace Sys2Proof.Machine

/-- `port_reset(p)` (R273). -/
def portReset (p : Nat) (s : State) : State := (s.modifyPort p Port.reset).portChange p

/-- `Write32(PORTSC[p], v)` (R272). -/
def writePortsc (p : Nat) (v : Word) (s : State) : State :=
  let s1 := s.modifyPort p (fun q => q.write v)
  if bit v 4 then portReset p s1 else s1

/-- `Write32(PORTPMSC[p], v)` (R274). -/
def writePortpmsc (p : Nat) (v : Word) (s : State) : State := s.modifyPort p (fun q => { q with portpmsc := v })

/-- PORTSC[p] (R271, R272). -/
def execPortsc (p : Nat) (a : Access) (s : State) : Out := accessPort p a Port.word (writePortsc p) s

/-- PORTPMSC[p] (R274). -/
def execPortpmsc (p : Nat) (a : Access) (s : State) : Out := accessPort p a Port.portpmsc (writePortpmsc p) s

/-- PORTLI[p] and PORTHLPMC[p]: read 0, ignore writes (R274). -/
def execPortliPorthlpmc (p : Nat) (_hlpmc : Bool) (a : Access) (s : State) : Out :=
  accessPort p a (fun _ => 0) ignoreWrite s

end Sys2Proof.Machine
end

