-- ==== Sys2Proof/Machine/RuntimeRegs.lean ====
section
/-! DEFINITION. The Runtime bank: MFINDEX and the interrupter register sets (R280-R285). -/

namespace Sys2Proof.Machine

/-! ### The Event Ring Segment Table (R283) -/

/-- The segment an ERST entry of 16 bytes describes: base bits 63:6 of bytes 0..7, size bytes 8..9 (R283). -/
def erstEntry (bytes : List Byte) : Addr × Nat :=
  (ptr6 (field (BitVec.ofNat 64 (leNat (bytes.take 8))) 6 58), leNat ((bytes.drop 8).take 2))

/-- The reads of `k` ERST entries from address a on: none where one of them answers MemFault (R283). -/
def readErst (a : Addr) : Nat → State → Option (List (Addr × Nat)) × State
  | 0, s => (some [], s)
  | k + 1, s =>
    let r := s.memRead a 16
    match r.1 with
    | none => (none, r.2)
    | some bytes =>
      let t := readErst (a + 16) k r.2
      (t.1.map (fun gs => erstEntry bytes :: gs), t.2)

/-- What an ERSTBA write does after it has stored its half (R283). -/
def loadErst (n : Nat) (s : State) : State :=
  let k := (s.intr n).erstsz.toNat
  if k = 0 ∨ 2 ^ s.cfg.erstMaxExp < k then s
  else
    let r := readErst (ptr6 (s.intr n).erstba) k s
    match r.1 with
    | none => r.2
    | some gs =>
      match EventRing.setSegments gs with
      | some e => r.2.setEvRing n e
      | none => r.2

/-- `Write32(ERSTBA[n] low, v)` (R283). -/
def writeErstbaLo (n : Nat) (v : Word) (s : State) : State :=
  loadErst n (s.modifyIntr n (fun i => { i with erstba := setPtr6Lo i.erstba v }))

/-- `Write32(ERSTBA[n] high, v)` (R283). -/
def writeErstbaHi (n : Nat) (v : Word) (s : State) : State :=
  loadErst n (s.modifyIntr n (fun i => { i with erstba := setPtr6Hi i.erstba v }))

/-! ### ERDP -/

/-- `EventRing[n].set_dequeue_ptr({ERDP.ptr[63:4], 4'b0})` (R285). -/
def erdpUpdate (n : Nat) (s : State) : State := s.setEvRing n ((s.evRing n).setDequeuePtr (ptr4 (s.intr n).erdpPtr))

/-- `Write32(ERDP[n] low, v)` (R285). -/
def writeErdpLo (n : Nat) (v : Word) (s : State) : State :=
  erdpUpdate n (s.modifyIntr n (fun i => i.writeErdpLo v))

/-- `Write32(ERDP[n] high, v)` (R285). -/
def writeErdpHi (n : Nat) (v : Word) (s : State) : State :=
  erdpUpdate n (s.modifyIntr n (fun i => { i with erdpPtr := setPtr4Hi i.erdpPtr v }))

/-! ### The instructions -/

/-- MFINDEX: every read draws (R36, R280), a sub-word read too (R82). -/
def execMfindex (a : Access) (s : State) : Out :=
  match a with
  | .read lane =>
    let d := s.drawMfindex
    .next { d.2 with result := .value (laneValue lane (d.1.setWidth 32)) }
  | .write _ => .next { s with result := .none }
  | .writeNarrow _ => .next { s with result := .none }

/-- IMAN[n] (R281). -/
def execIman (n : Nat) (a : Access) (s : State) : Out :=
  accessIntr n a Interrupter.imanWord (fun v s => s.modifyIntr n (fun i => i.writeIman v)) s

/-- IMOD[n] (R282). -/
def execImod (n : Nat) (a : Access) (s : State) : Out :=
  accessIntr n a Interrupter.imodWord (fun v s => s.modifyIntr n (fun i => i.writeImod v)) s

/-- ERSTSZ[n] (R282). -/
def execErstsz (n : Nat) (a : Access) (s : State) : Out :=
  accessIntr n a (fun i => i.erstsz.setWidth 32) (fun v s => s.modifyIntr n (fun i => { i with erstsz := field v 0 16 })) s

/-- ERSTBA_LO[n] (R283). -/
def execErstbaLo (n : Nat) (a : Access) (s : State) : Out :=
  accessIntr n a (fun i => lo32 (ptr6 i.erstba)) (writeErstbaLo n) s

/-- ERSTBA_HI[n] (R283). -/
def execErstbaHi (n : Nat) (a : Access) (s : State) : Out :=
  accessIntr n a (fun i => hi32 (ptr6 i.erstba)) (writeErstbaHi n) s

/-- ERDP_LO[n] (R285). -/
def execErdpLo (n : Nat) (a : Access) (s : State) : Out :=
  accessIntr n a Interrupter.erdpLoWord (writeErdpLo n) s

/-- ERDP_HI[n] (R285). -/
def execErdpHi (n : Nat) (a : Access) (s : State) : Out :=
  accessIntr n a (fun i => hi32 (ptr4 i.erdpPtr)) (writeErdpHi n) s

end Sys2Proof.Machine
end

