-- ==== Sys2Proof/Machine/Transfers.lean ====
section
/-! DEFINITION. The transfer TRBs, types 1..8 (R384-R392). Each meaning says what the TRB does on a transfer ring; on
the command ring it completes with TRB Error and its Slot ID (R346). -/

namespace Sys2Proof.Machine

/-- Success, or Short Packet where bytes of the length are left (R385, R387). -/
def lengthResult (len moved : Nat) : XferResult :=
  ⟨if len - moved = 0 then ccSuccess else ccShortPacket, BitVec.ofNat 24 (len - moved)⟩

/-- The device answered Err: the endpoint enters Error, USB Transaction Error with the given residual (R392). -/
def deviceError (sid e : Nat) (d : DeviceSlot) (len : Nat) (s : State) : State × XferResult :=
  (s.setSlot sid (some (d.setEpState e .error)), ⟨ccUsbTransactionError, BitVec.ofNat 24 len⟩)

/-- A Normal TRB after its data is known (R385): the device's answer decides. -/
def normalDevice (t : Trb) (sid e : Nat) (d : DeviceSlot) (data : List Byte) (s : State) : State × XferResult :=
  let len := (transferLength t).toNat
  let r := s.callDevice (.handleTransfer d.dev e data)
  match r.1 with
  | .err => deviceError sid e d len r.2
  | .ok [] => (r.2, ⟨ccSuccess, 0⟩)
  | .ok resp =>
    let n := min resp.length len
    if idt t then (r.2, lengthResult len n)
    else
      let w := r.2.memWrite t.parameter (resp.take n)
      if w.1 then (w.2, lengthResult len n) else (w.2, ⟨ccDataBufferError, BitVec.ofNat 24 len⟩)

/-- `normal(S, e, t)` (R385). -/
def normal (t : Trb) (sid e : Nat) (d : DeviceSlot) (s : State) : State × XferResult :=
  let len := (transferLength t).toNat
  if idt t then normalDevice t sid e d (leBytes t.parameter (min len 8)) s
  else
    let r := s.memRead t.parameter len
    match r.1 with
    | none => (r.2, ⟨ccDataBufferError, BitVec.ofNat 24 len⟩)
    | some data => normalDevice t sid e d data r.2

/-- `setup_stage(S, e, t)` (R386). -/
def setupStage (t : Trb) (sid e : Nat) (d : DeviceSlot) (s : State) : State × XferResult :=
  let r := s.callDevice (.handleControl d.dev (leBytes t.parameter 8))
  match r.1 with
  | .err => deviceError sid e d 8 r.2
  | .ok resp => (r.2.setSlot sid (some { d with ctlResp := resp }), ⟨ccSuccess, 0⟩)

/-- `data_stage(S, e, t)` (R387). -/
def dataStage (t : Trb) (sid _e : Nat) (d : DeviceSlot) (s : State) : State × XferResult :=
  let len := (transferLength t).toNat
  if dirIn t then
    let n := min d.ctlResp.length len
    let w := s.memWrite t.parameter (d.ctlResp.take n)
    if w.1 then (w.2.setSlot sid (some { d with ctlResp := [] }), lengthResult len n)
    else (w.2, ⟨ccDataBufferError, BitVec.ofNat 24 len⟩)
  else (s.setSlot sid (some { d with ctlResp := [] }), ⟨ccSuccess, 0⟩)

/-- Status Stage (R388). -/
def statusStage (sid _e : Nat) (d : DeviceSlot) (s : State) : State × XferResult :=
  (s.setSlot sid (some { d with ctlResp := [] }), ⟨ccSuccess, 0⟩)

/-- No Op on a transfer ring (R390). -/
def transferNoOp (_sid _e : Nat) (_d : DeviceSlot) (s : State) : State × XferResult := (s, ⟨ccSuccess, 0⟩)

/-- NORMAL (R385). -/
def execNormal (t : Trb) (s : State) : Out := s.runTrb (commandTrbError (slotId t)) (normal t)

/-- SETUP_STAGE (R386). -/
def execSetupStage (t : Trb) (s : State) : Out := s.runTrb (commandTrbError (slotId t)) (setupStage t)

/-- DATA_STAGE (R387). -/
def execDataStage (t : Trb) (s : State) : Out := s.runTrb (commandTrbError (slotId t)) (dataStage t)

/-- STATUS_STAGE (R388). -/
def execStatusStage (t : Trb) (s : State) : Out := s.runTrb (commandTrbError (slotId t)) statusStage

/-- ISOCH, consumed and not executed (R389). -/
def execIsoch (t : Trb) (s : State) : Out := s.runTrb (commandTrbError (slotId t)) transferTrbError

/-- LINK, consumed and not followed on either ring (R346, R389). -/
def execLink (t : Trb) (s : State) : Out := s.runTrb (commandTrbError (slotId t)) transferTrbError

/-- EVENT_DATA, consumed and not executed (R389). -/
def execEventData (t : Trb) (s : State) : Out := s.runTrb (commandTrbError (slotId t)) transferTrbError

/-- NOOP (R390). -/
def execNoop (t : Trb) (s : State) : Out := s.runTrb (commandTrbError (slotId t)) transferNoOp

end Sys2Proof.Machine
end

