-- ==== Sys2Proof/Machine/Dispatch.lean ====
section
/-! DEFINITION. One arm per constructor of Instr: the meaning of each row of spec/opcode_table.json. -/

namespace Sys2Proof.Machine

/-- The execution of one instruction. -/
def exec (i : Instr) (s : State) : Host.Outcome State Fault Refusal :=
  match i with
  | .normal t => Sys2Proof.Machine.execNormal t s
  | .setupStage t => Sys2Proof.Machine.execSetupStage t s
  | .dataStage t => Sys2Proof.Machine.execDataStage t s
  | .statusStage t => Sys2Proof.Machine.execStatusStage t s
  | .isoch t => Sys2Proof.Machine.execIsoch t s
  | .link t => Sys2Proof.Machine.execLink t s
  | .eventData t => Sys2Proof.Machine.execEventData t s
  | .noop t => Sys2Proof.Machine.execNoop t s
  | .enableSlot t => Sys2Proof.Machine.execEnableSlot t s
  | .disableSlot t => Sys2Proof.Machine.execDisableSlot t s
  | .addressDevice t => Sys2Proof.Machine.execAddressDevice t s
  | .configureEndpoint t => Sys2Proof.Machine.execConfigureEndpoint t s
  | .evaluateContext t => Sys2Proof.Machine.execEvaluateContext t s
  | .resetEndpoint t => Sys2Proof.Machine.execResetEndpoint t s
  | .stopEndpoint t => Sys2Proof.Machine.execStopEndpoint t s
  | .setTrDequeuePointer t => Sys2Proof.Machine.execSetTrDequeuePointer t s
  | .resetDevice t => Sys2Proof.Machine.execResetDevice t s
  | .forceEvent t => Sys2Proof.Machine.execForceEvent t s
  | .negotiateBandwidth t => Sys2Proof.Machine.execNegotiateBandwidth t s
  | .setLatencyToleranceValue t => Sys2Proof.Machine.execSetLatencyToleranceValue t s
  | .getPortBandwidth t => Sys2Proof.Machine.execGetPortBandwidth t s
  | .forceHeader t => Sys2Proof.Machine.execForceHeader t s
  | .noopCommand t => Sys2Proof.Machine.execNoopCommand t s
  | .transferEvent t => Sys2Proof.Machine.execTransferEvent t s
  | .commandCompletionEvent t => Sys2Proof.Machine.execCommandCompletionEvent t s
  | .portStatusChangeEvent t => Sys2Proof.Machine.execPortStatusChangeEvent t s
  | .bandwidthRequestEvent t => Sys2Proof.Machine.execBandwidthRequestEvent t s
  | .doorbellEvent t => Sys2Proof.Machine.execDoorbellEvent t s
  | .hostControllerEvent t => Sys2Proof.Machine.execHostControllerEvent t s
  | .deviceNotificationEvent t => Sys2Proof.Machine.execDeviceNotificationEvent t s
  | .mfindexWrapEvent t => Sys2Proof.Machine.execMfindexWrapEvent t s
  | .malformedTrb b => Sys2Proof.Machine.execMalformedTrb b s
  | .caplengthHciversion a => Sys2Proof.Machine.execCaplengthHciversion a s
  | .hcsparams1 a => Sys2Proof.Machine.execHcsparams1 a s
  | .hcsparams2 a => Sys2Proof.Machine.execHcsparams2 a s
  | .hcsparams3 a => Sys2Proof.Machine.execHcsparams3 a s
  | .hccparams1 a => Sys2Proof.Machine.execHccparams1 a s
  | .dboff a => Sys2Proof.Machine.execDboff a s
  | .rtsoff a => Sys2Proof.Machine.execRtsoff a s
  | .usbcmd a => Sys2Proof.Machine.execUsbcmd a s
  | .usbsts a => Sys2Proof.Machine.execUsbsts a s
  | .pagesize a => Sys2Proof.Machine.execPagesize a s
  | .dnctrl a => Sys2Proof.Machine.execDnctrl a s
  | .crcrLo a => Sys2Proof.Machine.execCrcrLo a s
  | .crcrHi a => Sys2Proof.Machine.execCrcrHi a s
  | .dcbaapLo a => Sys2Proof.Machine.execDcbaapLo a s
  | .dcbaapHi a => Sys2Proof.Machine.execDcbaapHi a s
  | .config a => Sys2Proof.Machine.execConfig a s
  | .portsc p a => Sys2Proof.Machine.execPortsc p a s
  | .portpmsc p a => Sys2Proof.Machine.execPortpmsc p a s
  | .portliPorthlpmc p hlpmc a => Sys2Proof.Machine.execPortliPorthlpmc p hlpmc a s
  | .mfindex a => Sys2Proof.Machine.execMfindex a s
  | .iman n a => Sys2Proof.Machine.execIman n a s
  | .imod n a => Sys2Proof.Machine.execImod n a s
  | .erstsz n a => Sys2Proof.Machine.execErstsz n a s
  | .erstbaLo n a => Sys2Proof.Machine.execErstbaLo n a s
  | .erstbaHi n a => Sys2Proof.Machine.execErstbaHi n a s
  | .erdpLo n a => Sys2Proof.Machine.execErdpLo n a s
  | .erdpHi n a => Sys2Proof.Machine.execErdpHi n a s
  | .db k a => Sys2Proof.Machine.execDb k a s
  | .outOfRange a => Sys2Proof.Machine.execOutOfRange a s
  | .cmd b => Sys2Proof.Machine.execCmd b s
  | .xfer slot ep b => Sys2Proof.Machine.execXfer slot ep b s
  | .xinit slot ep base size => Sys2Proof.Machine.execXinit slot ep base size s
  | .evt n => Sys2Proof.Machine.execEvt n s
  | .attach port dev => Sys2Proof.Machine.execAttach port dev s
  | .detach slot => Sys2Proof.Machine.execDetach slot s

end Sys2Proof.Machine
end

