-- ==== Sys2Proof/Machine/Fetch.lean ====
section
/-! DEFINITION. Where a step takes its next instruction from, and what it does around the instruction: the TRB at the
cursor of a drain in progress (R320, R374, R380), or the outside world's next operation (R410, R91). -/

namespace Sys2Proof.Machine

/-- Where an instruction was fetched from. -/
inductive Source where
  /-- A drain that holds the controller lock. -/
  | locked (t : Task)
  /-- An MMIO access of a vCPU. -/
  | access
  /-- A host-interface operation. -/
  | host
  /-- The split transfer drain at index k of `tasks`. -/
  | task (k : Nat) (t : Task)
  /-- The second half of an 8-byte access. -/
  | high (h : HighHalf)
deriving DecidableEq, Repr

/-- The TRB a drain executes next, if there is one. The command drain stops at an empty ring (R320); a transfer drain
also when its Device Slot is gone or its endpoint is not Running (R374, R377, R380). -/
def nextTrb (s : State) : Work → Option (Consumer × Raw)
  | .cmdDrain _ => if s.cmdRing.empty then none else some (.command, s.cmdRing.at s.cmdRing.deq)
  | .xferDrain sid serial e _ =>
    match s.slotAt sid with
    | none => none
    | some d =>
      if d.serial = serial ∧ d.epState e = .running ∧ (d.ring e).empty = false then
        some (.transfer sid e, (d.ring e).at (d.ring e).deq)
      else none
  | .idle => none

/-- What the access at index k of `tasks` does next: the instruction, and the state it runs in. -/
def fetchTask (s : State) (k : Nat) : Option (Source × Instr × State) :=
  match s.tasks[k]? with
  | none => none
  | some t =>
    match t.work with
    | .idle =>
      match t.high with
      | some h => some (.high h, instrOfAccess s.cfg h.access, { s with tasks := s.tasks.eraseIdx k })
      | none => none
    | .cmdDrain p =>
      match nextTrb s (.cmdDrain p) with
      | some (u, b) => some (.task k t, instrOfRaw b, { s with unit := u })
      | none => none
    | .xferDrain sid serial e p =>
      match nextTrb s (.xferDrain sid serial e p) with
      | some (u, b) => some (.task k t, instrOfRaw b, { s with unit := u })
      | none => none

/-- The next instruction, where it comes from and the state it runs in; none where the step runs no instruction. The
holder of the lock comes first (R90); then the outside world's next input; with no input waiting, the oldest access in
progress (log 3). -/
def fetch (s : State) : Option (Source × Instr × State) :=
  match s.locked with
  | some t =>
    match nextTrb s t.work with
    | some (u, b) => some (.locked t, instrOfRaw b, { s with unit := u })
    | none => none
  | none =>
    match s.inbox with
    | [] => fetchTask s 0
    | .turn k :: r => fetchTask { s with inbox := r } k
    | .access a :: r =>
      some (.access, instrOfAccess s.cfg a,
        { s with inbox := r, cont := (highHalfOf a).map (fun b => ⟨b, 0⟩) })
    | .host op :: r => some (.host, instrOfHost op, { s with inbox := r })
    | .memory _ _ :: _ => none
    | .unmap _ _ :: _ => none
    | .answers _ _ _ _ :: _ => none

/-- The drain's `posted <- true` when the TRB's event was posted (R320, R374; log 7). -/
def Work.note (w : Work) (posted : Bool) : Work :=
  match w with
  | .cmdDrain p => .cmdDrain (p || posted)
  | .xferDrain sid serial e p => .xferDrain sid serial e (p || posted)
  | .idle => .idle

/-- The low 32 bits a read returned. -/
def Result.word : Result → Word
  | .value v => field v 0 32
  | .none | .posted | .dropped | .queued _ | .full | .rejected | .initialised | .initRejected | .event _ | .noEvent
  | .slot _ | .noFreeSlots | .portUnavailable => 0

/-- The result of an 8-byte access after its second half: a read returns `{hi, lo}` (R82). -/
def joinHalves (h : HighHalf) (s : State) : State :=
  if h.access.isWrite then s
  else { s with result := .value (s.result.word ++ h.low : BitVec (32 + 32)) }

/-- What a step does after the instruction, by where the instruction came from. -/
def settle (src : Source) (s : State) : State :=
  match src with
  | .locked t => { s with locked := some { t with work := t.work.note (decide (s.result = .posted)) } }
  | .task k t => { s with tasks := s.tasks.set k { t with work := t.work.note (decide (s.result = .posted)) } }
  | .access =>
    match s.cont with
    | some h => { s with cont := none, tasks := s.tasks ++ [⟨.idle, some { h with low := s.result.word }⟩] }
    | none => s
  | .host => s
  | .high h => joinHalves h s

/-- `S.draining[e] <- false` where the Device Slot is still the drain's (R380). -/
def endDraining (s : State) : Work → State
  | .xferDrain sid serial e _ =>
    match s.slotAt sid with
    | some d => if d.serial = serial then s.setSlot sid (some (d.setDraining e false)) else s
    | none => s
  | .cmdDrain _ => s
  | .idle => s

/-- Whether the drain has posted an event. -/
def Work.posted : Work → Bool
  | .cmdDrain p => p
  | .xferDrain _ _ _ p => p
  | .idle => false

/-- The end of an access: one interrupt if its drain has posted an event (R320, R374), then its second half, if it has
one, is left to do (R82). -/
def endAccess (s : State) (t : Task) : State :=
  let s1 := if t.work.posted then s.raiseInterrupt 0 else s
  match t.high with
  | some h => { s1 with tasks := s1.tasks ++ [⟨.idle, some h⟩], result := .none }
  | none => { s1 with result := .none }

/-- The final step of the access at index k of `tasks` (R380 final). -/
def endTask (s : State) (k : Nat) : State :=
  match s.tasks[k]? with
  | none => s
  | some t => endAccess (endDraining { s with tasks := s.tasks.eraseIdx k } t.work) t

/-- A step that runs no instruction: a drain ends, guest memory or the coming answers change from outside, or nothing
happens. -/
def quiet (s : State) : State :=
  match s.locked with
  | some t => endAccess { s with locked := none } t
  | none =>
    match s.inbox with
    | [] => endTask s 0
    | .turn k :: r => endTask { s with inbox := r } k
    | .memory a bytes :: r => { s with inbox := r, mem := memPutN s.mem a bytes }
    | .unmap a n :: r => { s with inbox := r, mem := memEraseN s.mem a n }
    | .answers m sp d f :: r =>
      { s with
        inbox := r
        draws :=
          ⟨s.draws.mfindex ++ m, s.draws.speed ++ sp, s.draws.device ++ d, s.draws.memFault ++ f, s.draws.count⟩ }
    | .access _ :: _ => s
    | .host _ :: _ => s

/-- One step: the fetched instruction with what surrounds it, or a quiet step. -/
def stepOf (s : State) : Out :=
  match fetch s with
  | some (src, i, s1) => mapNext (settle src) (exec i s1)
  | none => .next (quiet s)

/-! ### Placing an instruction where the step fetches its next one (log 19) -/

/-- A ring that holds exactly the TRB b, valid at its cursor. -/
def oneTrbRing (base : Addr) (b : Raw) : Ring := ⟨true, base, 1, [b], 0, !rawCycle b, 0, rawCycle b⟩

/-- A command drain in progress whose next TRB is b. -/
def placeOnCommandRing (s : State) (b : Raw) : State :=
  { s with
    cmdRing := oneTrbRing 0x10000 b
    ctrl := .running
    cmdState := .running
    locked := some ⟨.cmdDrain false, none⟩ }

/-- A transfer drain of endpoint 1 of slot 1 in progress whose next TRB is b; the slot is created where it is absent. -/
def placeOnTransferRing (s : State) (b : Raw) : State :=
  let d := (s.slotAt 1).getD (DeviceSlot.create s.cfg 0 0 (s.serial + 1) .high)
  let d1 := ((d.setEpState 1 .running).setRing 1 (oneTrbRing 0x20000 b)).setDraining 1 true
  { s.setSlot 1 (some d1) with
    serial := max s.serial d.serial
    locked := none
    tasks := ⟨.xferDrain 1 d.serial 1 false, none⟩ :: s.tasks
    inbox := .turn 0 :: s.inbox }

/-- Place a fetched unit: a transfer TRB on a transfer ring, any other TRB on the command ring, an MMIO access or a host
operation as the outside world's next input. -/
def placeFetched (s : State) : Fetched → State
  | .trb b =>
    if 1 ≤ (trbType (rawWords b)).toNat ∧ (trbType (rawWords b)).toNat ≤ 8 then placeOnTransferRing s b
    else placeOnCommandRing s b
  | .access a => { s with locked := none, inbox := .access a :: s.inbox }
  | .host op => { s with locked := none, inbox := .host op :: s.inbox }

end Sys2Proof.Machine
end

