-- ==== Sys2Proof/Machine/Step.lean ====
section
/-! DEFINITION. One step of the machine, and the state whose next step runs a given word. -/

namespace Sys2Proof.Machine

/-- One step of the machine. -/
def step (s : State) : Host.Outcome State Fault Refusal := stepOf s

/-- The state s with the instruction of a table word placed where the next step fetches it (log 19). -/
def State.withFetchWord (s : State) (nbits w : Nat) : State := placeFetched s (tableFetched nbits w)

end Sys2Proof.Machine
end

