-- ==== Sys2Proof/Safety.lean ====
section
/-! DEFINITION. What a safe state of the core is: the shape of its tables and rings, and the invariants the spec gives
for its addresses, ports, slots, run state, interrupters and accesses in progress; the quiescent states (R472); and the
rings a producer and a consumer make out of a new ring. -/

namespace Sys2Proof.Machine

/-! ### Rings -/

/-- An initialised ring has what `init` checked (R201), one slot per index, and cursors inside it (R40, R42). -/
abbrev Ring.ok (r : Ring) : Prop :=
  r.init = true →
    r.base ≠ 0 ∧ r.base.toNat % 16 = 0 ∧ 0 < r.size ∧ r.size < 2 ^ 32 ∧ r.slots.length = r.size ∧ r.enq < r.size
      ∧ r.deq < r.size

/-- A segment has what `set_segments` checked (R220), a 16-bit size (R283) and one slot per index (R41). -/
abbrev Segment.ok (g : Segment) : Prop :=
  g.base ≠ 0 ∧ g.base.toNat % 16 = 0 ∧ 0 < g.size ∧ g.size < 2 ^ 16 ∧ g.slots.length = g.size

/-- A position (segment, slot) of an event ring. -/
abbrev EventRing.inside (e : EventRing) (s i : Nat) : Prop := s < e.segs.length ∧ i < (e.seg s).size

/-- An event ring's segments are sound, and where it has any its three positions are inside them (R41, R43). -/
abbrev EventRing.ok (e : EventRing) : Prop :=
  (∀ g ∈ e.segs, g.ok)
    ∧ (e.segs ≠ [] → e.inside e.eseg e.eidx ∧ e.inside e.dseg e.didx ∧ e.inside e.gseg e.gidx)

/-- The rings that `init`, `queue` and `next` make: no dequeue pointer command has moved the consumer (R200, R205). -/
inductive Ring.Made : Ring → Prop where
  | init {base : Addr} {size : Nat} {r : Ring} (h : Ring.initialise base size = some r) : Ring.Made r
  | queue {r : Ring} (b : Raw) (h : Ring.Made r) : Ring.Made (r.queue b).1
  | next {r r' : Ring} {b : Raw} {a : Addr} (h : Ring.Made r) (e : r.next = some (b, a, r')) : Ring.Made r'

/-- The ring and the verdicts of a sequence of `queue` operations. -/
def Ring.queueAll (r : Ring) : List Raw → Ring × List Result
  | [] => (r, [])
  | b :: bs =>
    let q := r.queue b
    let rest := q.1.queueAll bs
    (rest.1, q.2 :: rest.2)

/-- The bytes a sequence of successful `queue` operations stores: each TRB with the producer's cycle bit (R203). -/
def Ring.stamped (r : Ring) : List Raw → List Raw
  | [] => []
  | b :: bs => rawSetCycle b r.pcs :: (r.queue b).1.stamped bs

/-- The ring and the results of k `next` operations. -/
def Ring.nextAll (r : Ring) : Nat → Ring × List (Option (Raw × Addr))
  | 0 => (r, [])
  | k + 1 =>
    match r.next with
    | none =>
      let rest := r.nextAll k
      (rest.1, none :: rest.2)
    | some (b, a, r1) =>
      let rest := r1.nextAll k
      (rest.1, some (b, a) :: rest.2)

/-- The event ring after a sequence of postings; none where one of them is dropped. -/
def EventRing.postAll (e : EventRing) : List Trb → Option EventRing
  | [] => some e
  | t :: ts =>
    match e.post t with
    | none => none
    | some e1 => e1.postAll ts

/-! ### Device slots -/

/-- A Device Slot in the form attach makes and every rule keeps (R46, R47, R48): its port exists, its route string and
endpoint types are 0, it has one context and one ring per endpoint, endpoint 0 is unused, its rings are sound. -/
abbrev DeviceSlot.ok (c : Config) (d : DeviceSlot) : Prop :=
  d.port < c.maxPorts ∧ d.ctx.routeString = 0 ∧ d.ctx.deviceAddress ≤ c.numAddr ∧ d.eps.length = c.numEp
    ∧ d.rings.length = c.numEp ∧ d.draining.length = c.numEp ∧ d.epState 0 = .disabled ∧ (∀ e ∈ d.eps, e.type = 0)
    ∧ (d.ring 0).init = false ∧ (∀ r ∈ d.rings, r.ok)

/-- Entry sid of the slot table, index 0 included (R45). -/
def State.entry (s : State) (sid : Nat) : Option DeviceSlot := s.slotTab.getD sid none

/-- The device address of entry sid; 0 where it has none (R47). -/
def State.addressAt (s : State) (sid : Nat) : Nat :=
  match s.entry sid with
  | some d => d.ctx.deviceAddress
  | none => 0

/-! ### The invariants -/

/-- The tables have the sizes of the configuration (R35-R38, R41, R45, R49), entry 0 of the slot table is None (R45),
address 0 is not marked (R49), and every ring and Device Slot is sound. -/
abbrev State.Shape (s : State) : Prop :=
  s.cfg.ok = true ∧ s.ports.length = s.cfg.maxPorts ∧ s.intrs.length = s.cfg.maxIntrs
    ∧ s.evRings.length = s.cfg.maxIntrs ∧ s.db.length = s.cfg.maxSlots + 1
    ∧ s.slotTab.length = s.cfg.maxSlots + 1 ∧ s.addrUsed.length = s.cfg.numAddr + 1
    ∧ s.entry 0 = none ∧ s.addrUsed.getD 0 false = false
    ∧ s.cmdRing.ok ∧ (∀ e ∈ s.evRings, e.ok) ∧ (∀ o ∈ s.slotTab, ∀ d ∈ o, d.ok s.cfg)

/-- Guest memory is in its canonical form (log 8). -/
abbrev State.MemoryOk (s : State) : Prop := Memory.wf s.mem = true

/-- R49 and R327: an address is marked exactly where one Device Slot has it; a slot has one exactly where it is
Addressed or Configured; no two slots share one. -/
abbrev State.AddressesOk (s : State) : Prop :=
  (∀ a ∈ List.range (s.cfg.numAddr + 1),
      (s.addrUsed.getD a false = true ↔ a ≠ 0 ∧ ∃ i ∈ List.range s.slotTab.length, s.addressAt i = a))
    ∧ (∀ i ∈ List.range s.slotTab.length, ∀ j ∈ List.range s.slotTab.length,
        s.addressAt i = s.addressAt j → s.addressAt i ≠ 0 → i = j)
    ∧ (∀ o ∈ s.slotTab, ∀ d ∈ o,
        (d.ctx.state = .addressed ∨ d.ctx.state = .configured) ↔ d.ctx.deviceAddress ≠ 0)

/-- R35, R45, R46, R162, R400, R403: a port is connected exactly where it names a slot; that slot is the one attached at
it, with the speed code shown; the power, link and change bits that nothing sets keep their values. -/
abbrev Port.ok (q : Port) : Prop :=
  q.pp = true ∧ q.pec = false ∧ q.wrc = false ∧ q.ccs = q.slot.isSome ∧ (q.ped = true → q.ccs = true ∧ q.pls = 0)
    ∧ (q.ccs = true → q.pls = 0 ∨ q.pls = 7) ∧ (q.ccs = false → q.pls = 5 ∧ q.speed = 0)

/-- The ports and the slot table name each other (R35, R45, R46). -/
abbrev State.PortsOk (s : State) : Prop :=
  (∀ q ∈ s.ports, q.ok)
    ∧ (∀ p ∈ List.range s.ports.length, ∀ sid ∈ (s.port p).slot,
        ∃ d ∈ s.entry sid, d.port = p ∧ (s.port p).speed = speedCode d.ctx.speed)
    ∧ (∀ sid ∈ List.range s.slotTab.length, ∀ d ∈ s.entry sid, (s.port d.port).slot = some sid)

/-- R32, R158, R206: RS and the run state agree, HSE and SRE are never set, a Running command ring is initialised. -/
abbrev State.RunOk (s : State) : Prop :=
  (s.usbcmd.rs = true ↔ s.ctrl = .running) ∧ s.usbsts.hse = false ∧ s.usbsts.sre = false
    ∧ (s.cmdState = .running → s.cmdRing.init = true)

/-- An event ring nothing has been posted in and nothing consumed from. -/
abbrev EventRing.untouched (e : EventRing) : Prop :=
  e.eseg = 0 ∧ e.eidx = 0 ∧ e.pcs = true ∧ e.gseg = 0 ∧ e.gidx = 0 ∧ e.gccs = true
    ∧ (∀ g ∈ e.segs, g.slots = List.replicate g.slots.length 0)

/-- R430: interrupters 1 and up have no source of events or interrupts. -/
abbrev State.OnlyInterrupterZero (s : State) : Prop :=
  (∀ i ∈ s.intrs.tail, i.ip = false ∧ i.ehb = false) ∧ (∀ e ∈ s.evRings.tail, e.untouched)

/-- Whether work is the drain of endpoint e of the Device Slot with this serial number in entry sid. -/
abbrev Work.drains (sid serial e : Nat) (w : Work) : Prop :=
  w = .xferDrain sid serial e false ∨ w = .xferDrain sid serial e true

/-- R51, R52, R90, R380: a command drain holds the lock and finds the controller and its ring Running; the accesses in
progress without the lock are split transfer drains and second halves; a drain in progress has its draining flag's
access. -/
abbrev State.AccessesOk (s : State) : Prop :=
  s.cont = none
    ∧ (∀ t ∈ s.locked, t.work ≠ .idle
        ∧ (t.work = .cmdDrain false ∨ t.work = .cmdDrain true → s.ctrl = .running ∧ s.cmdState = .running))
    ∧ (∀ t ∈ s.tasks, t.work ≠ .cmdDrain false ∧ t.work ≠ .cmdDrain true ∧ (t.work = .idle → t.high ≠ none))
    ∧ (∀ sid ∈ List.range s.slotTab.length, ∀ d ∈ s.entry sid, ∀ e ∈ List.range d.draining.length,
        d.isDraining e = true → ∃ t ∈ s.tasks, t.work.drains sid d.serial e)

/-- Everything the invariants say. -/
structure State.Safe (s : State) : Prop where
  shape : s.Shape
  memory : s.MemoryOk
  addresses : s.AddressesOk
  ports : s.PortsOk
  run : s.RunOk
  interrupters : s.OnlyInterrupterZero
  accesses : s.AccessesOk

/-- R472: no drain is in progress and no vCPU has an access in progress. -/
abbrev State.Quiescent (s : State) : Prop :=
  s.locked = none ∧ s.tasks = [] ∧ s.cont = none
    ∧ (∀ o ∈ s.slotTab, ∀ d ∈ o, ∀ b ∈ d.draining, b = false)

end Sys2Proof.Machine
end

