-- ==== Sys2Proof/Certificates/Slice0/Obligations.lean ====
section
/-! DEFINITION. The statements for the provers, each from the numbered rules of spec/ its docstring names. -/

namespace Sys2Proof.Claims

open Sys2Proof Sys2Proof.Machine

/-! ### The words the statements are written with -/

/-- `b << i` as a number. -/
def digit (b : Bool) (i : Nat) : Nat := if b then 2 ^ i else 0

/-- A 32-bit word from a number. -/
abbrev w32 (n : Nat) : Word := BitVec.ofNat 32 n

/-- The law of a register at a state (R82, R85): a read of a lane returns that lane of the value and changes nothing, a
32-bit write has the given effect, a narrower write has none. Every other field is unchanged. -/
def RegisterLaw (mk : Access → Instr) (s : State) (value : Word) (write : Word → State) : Prop :=
  (∀ lane, exec (mk (.read lane)) s = .next { s with result := .value (laneValue lane value) })
    ∧ (∀ v, exec (mk (.write v)) s = .next { write v with result := .none })
    ∧ (∀ lane, exec (mk (.writeNarrow lane)) s = .next { s with result := .none })

/-- At this offset of the hardware's window stands this register (R87). -/
def reachedAt (off : Nat) (mk : Access → Instr) : Prop :=
  ∀ acc : Access, acc.wf = true → decode Config.hardware (.access (toMmio off acc)) = mk acc

/-- The pointer bits 63:6 after a write of the low half (R83): bits 31:6 of v, the stored high half. -/
def low6 (p : BitVec 58) (v : Word) : BitVec 58 := BitVec.ofNat 58 (p.toNat / 2 ^ 26 * 2 ^ 26 + v.toNat / 64)

/-- The pointer bits 63:6 after a write of the high half (R83). -/
def high6 (p : BitVec 58) (v : Word) : BitVec 58 := BitVec.ofNat 58 (v.toNat * 2 ^ 26 + p.toNat % 2 ^ 26)

/-- The pointer bits 63:4 after a write of the low half (R285). -/
def low4 (p : BitVec 60) (v : Word) : BitVec 60 := BitVec.ofNat 60 (p.toNat / 2 ^ 28 * 2 ^ 28 + v.toNat / 16)

/-- The pointer bits 63:4 after a write of the high half (R285). -/
def high4 (p : BitVec 60) (v : Word) : BitVec 60 := BitVec.ofNat 60 (v.toNat * 2 ^ 28 + p.toNat % 2 ^ 28)

/-- The Command Completion Event of R117 and R214 before cycle stamping. -/
def completionTrb (a : Addr) (slot code extra : Nat) : Trb :=
  ⟨a, w32 (code * 2 ^ 24 + extra), w32 (slot * 2 ^ 24 + 33 * 2 ^ 10)⟩

/-- The Transfer Event of R117 and R240 before cycle stamping. -/
def transferTrb (a : Addr) (slot ep code residual : Nat) : Trb :=
  ⟨a, w32 (code * 2 ^ 24 + residual), w32 (slot * 2 ^ 24 + ep * 2 ^ 16 + 32 * 2 ^ 10)⟩

/-- The Port Status Change Event of R117 and R402 before cycle stamping. -/
def portTrb (p : Nat) : Trb := ⟨BitVec.ofNat 64 ((p + 1) * 2 ^ 24), w32 (1 * 2 ^ 24), w32 (34 * 2 ^ 10)⟩

/-- s with the command ring's cursor past the TRB it names (R204). -/
def pastCommand (s : State) : State := { s with cmdRing := s.cmdRing.advance }

/-- What a command leaves where its own effect is s1 (R214, R320): one completion with the TRB's address is posted on
interrupter 0, and nothing else changes. -/
def afterCommand (s s1 : State) (slot code extra : Nat) : State :=
  let p := s1.postEvent 0 (completionTrb (s.cmdRing.base + BitVec.ofNat 64 (16 * s.cmdRing.deq)) slot code extra)
  { p.1 with result := if p.2 then .posted else .dropped }

/-- Device Slot d with the cursor of endpoint e's ring past the TRB it names (R204). -/
def pastTransfer (d : DeviceSlot) (e : Nat) : DeviceSlot := d.setRing e (d.ring e).advance

/-- What a transfer TRB on Device Slot d leaves where its own effect is s1 (R240, R374): one Transfer Event with the
TRB's address is posted on interrupter 0, and nothing else changes. -/
def afterTransfer (s1 : State) (d : DeviceSlot) (sid e code residual : Nat) : State :=
  let p := s1.postEvent 0
    (transferTrb ((d.ring e).base + BitVec.ofNat 64 (16 * (d.ring e).deq)) sid e code residual)
  { p.1 with result := if p.2 then .posted else .dropped }

/-- What `port_change(p)` leaves (R402): PCD, one Port Status Change Event, and interrupter 0 raised if it was posted. -/
def portChanged (s : State) (p : Nat) : State :=
  let r := { s with usbsts := { s.usbsts with pcd := true } }.postEvent 0 (portTrb p)
  if r.2 then r.1.raiseInterrupt 0 else r.1

/-- The command that ran is one of a slot or endpoint (types 10 to 17, R321). -/
abbrev slotCommands : List (Trb → Instr) :=
  [.disableSlot, .addressDevice, .configureEndpoint, .evaluateContext, .resetEndpoint, .stopEndpoint,
    .setTrDequeuePointer, .resetDevice]

/-- The TRBs the command ring answers with TRB Error (R345, R346). -/
abbrev notCommands : List (Trb → Instr) :=
  [.normal, .setupStage, .dataStage, .statusStage, .isoch, .link, .eventData, .noop, .forceEvent,
    .negotiateBandwidth, .setLatencyToleranceValue, .getPortBandwidth, .forceHeader, .transferEvent,
    .commandCompletionEvent, .portStatusChangeEvent, .bandwidthRequestEvent, .doorbellEvent, .hostControllerEvent,
    .deviceNotificationEvent, .mfindexWrapEvent]

/-- The TRBs a transfer ring answers with TRB Error (R389, R391). -/
abbrev notTransfers : List (Trb → Instr) :=
  [.isoch, .link, .eventData, .enableSlot, .disableSlot, .addressDevice, .configureEndpoint, .evaluateContext,
    .resetEndpoint, .stopEndpoint, .setTrDequeuePointer, .resetDevice, .forceEvent, .negotiateBandwidth,
    .setLatencyToleranceValue, .getPortBandwidth, .forceHeader, .noopCommand, .transferEvent,
    .commandCompletionEvent, .portStatusChangeEvent, .bandwidthRequestEvent, .doorbellEvent, .hostControllerEvent,
    .deviceNotificationEvent, .mfindexWrapEvent]

/-- Whether an instruction is the execution of a TRB. -/
def isTrb (i : Instr) : Bool := i.words.isSome || (match i with | .malformedTrb _ => true | _ => false)

/-- Whether an instruction is the USBCMD write that resets the controller (R261). -/
def isReset : Instr → Bool
  | .usbcmd (.write v) => v.getLsbD 1
  | _ => false

/-- The access at index k of the accesses in progress has its turn, and rest is the inbox then (R91, R380; log 3): the
outside says so, or no input waits and it is the oldest. -/
def hasTurn (s : State) (k : Nat) (rest : List Input) : Prop :=
  s.locked = none ∧ (s.inbox = .turn k :: rest ∨ (s.inbox = [] ∧ rest = [] ∧ k = 0))

/-- What is left to do of an access whose drain has ended: its second half, if it has one (R82; log 16). -/
def secondHalf : Option HighHalf → List Task
  | none => []
  | some x => [⟨.idle, some x⟩]

/-- s with interrupter 0 raised once, where there is something to raise it for (R320, R374, R431). -/
def raisedIf (p : Bool) (s : State) : State :=
  if p then
    { s with
      intrs := s.intrs.modify 0 (fun i => { i with ip := true, ehb := true })
      usbsts := { s.usbsts with eint := true } }
  else s

/-- Whether the memory collaborator fails the next access, and the state once that answer is used up (R96; log 9, 11):
the oldest listed verdict, or, where none is listed, a free value. -/
def nextVerdict (s : State) (fails : Bool) (s' : State) : Prop :=
  (∃ r, s.draws.memFault = fails :: r ∧ s' = { s with draws := { s.draws with memFault := r } })
    ∨ (s.draws.memFault = [] ∧ fails = Config.freeMemFault s.draws.count
      ∧ s' = { s with draws := { s.draws with count := s.draws.count + 1 } })

/-- The instructions that can change a port, and so post a port change (R272, R400, R402, R403). -/
def changesPort : Instr → Bool
  | .portsc _ _ | .attach _ _ | .detach _ => true
  | _ => false

/-- The interrupter whose register an instruction accesses, if it accesses one (R37). -/
def intrOf : Instr → Option Nat
  | .iman n _ | .imod n _ | .erstsz n _ | .erstbaLo n _ | .erstbaHi n _ | .erdpLo n _ | .erdpHi n _ => some n
  | _ => none

/-- How many bytes a transfer TRB stores, and where: the function its meaning uses, on the state it uses it on (R385,
R387). None for a form that stores nothing. -/
def storedRange (i : Instr) (s : State) : Option (Addr × Nat) :=
  match i, s.unit with
  | .normal t, .transfer sid e =>
    match s.slotAt sid with
    | none => none
    | some d =>
      if idt t then none
      else
        let r := (s.setSlot sid (some (pastTransfer d e))).memRead t.parameter (transferLength t).toNat
        match r.1 with
        | none => none
        | some data =>
          match (r.2.callDevice (.handleTransfer d.dev e data)).1 with
          | .err => none
          | .ok resp => some (t.parameter, min resp.length (transferLength t).toNat)
  | .dataStage t, .transfer sid _ =>
    match s.slotAt sid with
    | none => none
    | some d => if dirIn t then some (t.parameter, min d.ctlResp.length (transferLength t).toNat) else none
  | _, _ => none

end Sys2Proof.Claims

open Sys2Proof Sys2Proof.Machine Sys2Proof.Claims

/-! ### Encoding -/

/-- Every well-formed instruction, encoded and decoded again, is itself, with every operand at every value its encoding
admits (R110, R118, R171, R172 for TRBs; R82, R87, R250 for registers; R16 for host operations). -/
def Obligations.EncodeThenDecodeIsIdentity : Prop :=
  ∀ (c : Config) (i : Instr), c.ok = true → i.wf c = true → decode c (encode c i) = i

/-- R171, R172, R173: the bytes of an encoded TRB are those of its words, low byte first; decoding takes them back;
exactly the unrecognised types are rejected, and no other field is checked. -/
def Obligations.CodecBytesAndRoundTrip : Prop :=
  (∀ t : Trb, rawBytes (encodeTrb t)
      = (List.range 8).map (fun k => BitVec.ofNat 8 (t.parameter.toNat / 256 ^ k))
        ++ (List.range 4).map (fun k => BitVec.ofNat 8 (t.status.toNat / 256 ^ k))
        ++ (List.range 4).map (fun k => BitVec.ofNat 8 (t.control.toNat / 256 ^ k)))
    ∧ (∀ t : Trb, ((1 ≤ t.control.toNat / 1024 % 64 ∧ t.control.toNat / 1024 % 64 ≤ 23)
          ∨ (32 ≤ t.control.toNat / 1024 % 64 ∧ t.control.toNat / 1024 % 64 ≤ 39)) →
        decodeTrb (encodeTrb t) = .ok t)
    ∧ (∀ b : Raw,
        (((1 ≤ b.toNat / 2 ^ 106 % 64 ∧ b.toNat / 2 ^ 106 % 64 ≤ 23)
            ∨ (32 ≤ b.toNat / 2 ^ 106 % 64 ∧ b.toNat / 2 ^ 106 % 64 ≤ 39)) →
          ∃ t, decodeTrb b = .ok t ∧ encodeTrb t = b)
        ∧ (¬ ((1 ≤ b.toNat / 2 ^ 106 % 64 ∧ b.toNat / 2 ^ 106 % 64 ≤ 23)
            ∨ (32 ≤ b.toNat / 2 ^ 106 % 64 ∧ b.toNat / 2 ^ 106 % 64 ≤ 39)) →
          decodeTrb b = .error .malformedTrb))

/-- R174 to R180: where each field of the codec lies, and that each mutator writes its field and leaves every other bit;
`set_type` refuses an unrecognised type; `last` is the inverse of `chain`; a length keeps its low 17 bits. -/
def Obligations.CodecFieldWrites : Prop :=
  ∀ t : Trb,
    ((trbType t).toNat = t.control.toNat / 2 ^ 10 % 64 ∧ cycle t = t.control.getLsbD 0
        ∧ (completionCode t).toNat = t.status.toNat / 2 ^ 24 ∧ chain t = t.control.getLsbD 4
        ∧ ioc t = t.control.getLsbD 5 ∧ idt t = t.control.getLsbD 6 ∧ last t = !t.control.getLsbD 4
        ∧ (transferLength t).toNat = t.status.toNat % 2 ^ 17 ∧ (slotId t).toNat = t.control.toNat / 2 ^ 24
        ∧ (endpointId t).toNat = t.control.toNat / 2 ^ 16 % 2 ^ 5 ∧ (eventLength t).toNat = t.status.toNat % 2 ^ 24)
      ∧ (∀ v : BitVec 6, recognised v = true →
        ∃ w, setType t v = some w ∧ trbType w = v ∧ w.parameter = t.parameter ∧ w.status = t.status
          ∧ ∀ k < 32, (k < 10 ∨ 16 ≤ k) → w.control.getLsbD k = t.control.getLsbD k)
      ∧ (∀ v : BitVec 6, recognised v = false → setType t v = none)
      ∧ (∀ c : Bool, cycle (setCycle t c) = c ∧ (setCycle t c).parameter = t.parameter
          ∧ (setCycle t c).status = t.status
          ∧ ∀ k < 32, k ≠ 0 → (setCycle t c).control.getLsbD k = t.control.getLsbD k)
      ∧ (∀ cc : BitVec 8, completionCode (setCompletionCode t cc) = cc
          ∧ (setCompletionCode t cc).parameter = t.parameter ∧ (setCompletionCode t cc).control = t.control
          ∧ ∀ k < 24, (setCompletionCode t cc).status.getLsbD k = t.status.getLsbD k)
      ∧ (∀ v : Bool, chain (setChain t v) = v ∧ ioc (setIoc t v) = v ∧ idt (setIdt t v) = v
          ∧ (setChain t v).parameter = t.parameter ∧ (setChain t v).status = t.status
          ∧ (setIoc t v).parameter = t.parameter ∧ (setIoc t v).status = t.status
          ∧ (setIdt t v).parameter = t.parameter ∧ (setIdt t v).status = t.status
          ∧ (∀ k < 32, (k ≠ 4 → (setChain t v).control.getLsbD k = t.control.getLsbD k)
            ∧ (k ≠ 5 → (setIoc t v).control.getLsbD k = t.control.getLsbD k)
            ∧ (k ≠ 6 → (setIdt t v).control.getLsbD k = t.control.getLsbD k))
          ∧ setLast t v = setChain t (!v))
      ∧ (∀ n : Word, (transferLength (setTransferLength t n)).toNat = n.toNat % 2 ^ 17
          ∧ (setTransferLength t n).parameter = t.parameter ∧ (setTransferLength t n).control = t.control
          ∧ ∀ k < 32, 17 ≤ k → (setTransferLength t n).status.getLsbD k = t.status.getLsbD k)

/-- Words written out from R80, R110 and R118: the examples of R171, R174, R326, R333, R385 and R386, and the register
offsets of R87. -/
def Obligations.WordsOfTheSpecDecode : Prop :=
  decode Config.hardware (.trb 0x00005C01000000000000000000000000) = .noopCommand ⟨0, 0, 0x5C01⟩
    ∧ decode Config.hardware (.trb 0x00002401000000000000000000000000) = .enableSlot ⟨0, 0, 0x2401⟩
    ∧ decode Config.hardware (.trb 0x01002C01000000000000000000040000) = .addressDevice ⟨0x40000, 0, 0x01002C01⟩
    ∧ decode Config.hardware (.trb 0x01013801000000000000000000000000) = .resetEndpoint ⟨0, 0, 0x01013801⟩
    ∧ decode Config.hardware (.trb 0x00000401000000400000000000050000) = .normal ⟨0x50000, 0x40, 0x401⟩
    ∧ decode Config.hardware (.trb 0x00000841000000080012000001000680)
        = .setupStage ⟨0x0012000001000680, 8, 0x841⟩
    ∧ decode Config.hardware (.trb 0x00008401010000000000000012345670)
        = .commandCompletionEvent ⟨0x12345670, 0x01000000, 0x8401⟩
    ∧ decode Config.hardware (.trb 0) = .malformedTrb 0
    ∧ decode Config.hardware (.access ⟨0x20, 4, true, 1⟩) = .usbcmd (.write 1)
    ∧ decode Config.hardware (.access ⟨0x4A0, 4, false, 0⟩) = .outOfRange ⟨0x4A0, 4, false, 0⟩
    ∧ decode Config.hardware (.access ⟨0x3080, 4, true, 1⟩) = .db 32 (.write 1)

/-- R84, R87, R250: where the registers of the window stand, and that every other offset is out of range, read or
written, in any width. -/
def Obligations.MmioAddressMap : Prop :=
  reachedAt 0x00 .caplengthHciversion ∧ reachedAt 0x04 .hcsparams1 ∧ reachedAt 0x08 .hcsparams2
    ∧ reachedAt 0x0C .hcsparams3 ∧ reachedAt 0x10 .hccparams1 ∧ reachedAt 0x14 .dboff ∧ reachedAt 0x18 .rtsoff
    ∧ reachedAt 0x20 .usbcmd ∧ reachedAt 0x24 .usbsts ∧ reachedAt 0x28 .pagesize ∧ reachedAt 0x2C .dnctrl
    ∧ reachedAt 0x30 .crcrLo ∧ reachedAt 0x34 .crcrHi ∧ reachedAt 0x50 .dcbaapLo ∧ reachedAt 0x54 .dcbaapHi
    ∧ reachedAt 0x58 .config
    ∧ (∀ p < 8, reachedAt (0x420 + 0x10 * p) (.portsc p) ∧ reachedAt (0x424 + 0x10 * p) (.portpmsc p)
        ∧ reachedAt (0x428 + 0x10 * p) (.portliPorthlpmc p false)
        ∧ reachedAt (0x42C + 0x10 * p) (.portliPorthlpmc p true))
    ∧ reachedAt 0x2000 .mfindex
    ∧ (∀ n < 8, reachedAt (0x2020 + 0x20 * n) (.iman n) ∧ reachedAt (0x2024 + 0x20 * n) (.imod n)
        ∧ reachedAt (0x2028 + 0x20 * n) (.erstsz n) ∧ reachedAt (0x2030 + 0x20 * n) (.erstbaLo n)
        ∧ reachedAt (0x2034 + 0x20 * n) (.erstbaHi n) ∧ reachedAt (0x2038 + 0x20 * n) (.erdpLo n)
        ∧ reachedAt (0x203C + 0x20 * n) (.erdpHi n))
    ∧ (∀ k ≤ 32, reachedAt (0x3000 + 4 * k) (.db k))
    ∧ (∀ a : MmioAccess,
        ¬ (a.off < 0x1C ∨ (0x20 ≤ a.off ∧ a.off < 0x38) ∨ (0x50 ≤ a.off ∧ a.off < 0x5C)
            ∨ (0x420 ≤ a.off ∧ a.off < 0x4A0) ∨ (0x2000 ≤ a.off ∧ a.off < 0x2004)
            ∨ (0x2020 ≤ a.off ∧ a.off < 0x2120 ∧ ¬ (0xC ≤ a.off % 0x20 ∧ a.off % 0x20 < 0x10))
            ∨ (0x3000 ≤ a.off ∧ a.off < 0x3084)) →
        decode Config.hardware (.access a) = .outOfRange a)

/-- R82: what an access of another width or alignment does, through the 32-bit access at the same word: an aligned read
of 1 or 2 bytes does everything the 32-bit read does and returns its bytes of the value; an aligned write of 1 or 2
bytes, and any access that is misaligned or of another width, changes nothing; an aligned access of 8 bytes is first the
32-bit access at its offset with the low half of its value (log 16; what follows it: EightByteAccessesAreTwoHalves). -/
def Obligations.NarrowAndMisalignedAccesses : Prop :=
  ∀ (s : State) (off width : Nat) (value : BitVec 64),
    ((width = 1 ∨ width = 2) → off % width = 0 → ∀ t v,
        exec (decode s.cfg (.access ⟨off - off % 4, 4, false, 0⟩)) s = .next t → t.result = .value v →
        exec (decode s.cfg (.access ⟨off, width, false, value⟩)) s
          = .next { t with result := .value (BitVec.ofNat 64 (v.toNat / 2 ^ (8 * (off % 4)) % 2 ^ (8 * width))) })
      ∧ ((width = 1 ∨ width = 2) → off % width = 0 →
        exec (decode s.cfg (.access ⟨off, width, true, value⟩)) s = .next { s with result := .none })
      ∧ ((off % width ≠ 0 ∨ (width ≠ 1 ∧ width ≠ 2 ∧ width ≠ 4 ∧ width ≠ 8)) →
        exec (decode s.cfg (.access ⟨off, width, false, value⟩)) s = .next { s with result := .value 0 }
          ∧ exec (decode s.cfg (.access ⟨off, width, true, value⟩)) s = .next { s with result := .none })
      ∧ (off % 8 = 0 → ∀ isWrite,
        exec (decode s.cfg (.access ⟨off, 8, isWrite, value⟩)) s
          = exec (decode s.cfg (.access ⟨off, 4, isWrite, BitVec.ofNat 64 (value.toNat % 2 ^ 32)⟩)) s)

/-! ### Rings -/

/-- R205: on an empty ring that `init`, `queue` and `next` have made, k ≤ size `queue` operations all succeed, and k
`next` operations then return the queued TRBs, with their stamped cycle bit, in submission order, each with the address
its `queue` answered; a further `next` returns None. R200, R203: after `size` of them the ring is full, and a further
`queue` is refused and changes nothing. -/
def Obligations.RingIsFirstInFirstOut : Prop :=
  ∀ (r : Ring) (bs : List Raw), r.Made → r.init = true → r.empty = true → bs.length ≤ r.size →
    (∃ as : List Addr, as.length = bs.length
        ∧ (r.queueAll bs).2 = as.map Result.queued
        ∧ ((r.queueAll bs).1.nextAll bs.length).2 = ((r.stamped bs).zip as).map some
        ∧ ((r.queueAll bs).1.nextAll bs.length).1.next = none)
      ∧ (bs.length = r.size → (r.queueAll bs).1.full = true
        ∧ ∀ b, (r.queueAll bs).1.queue b = ((r.queueAll bs).1, .full))

/-- R223: on a single-segment event ring of size N after `set_segments`, N postings all succeed, are stamped with cycle
1 in slots 0 to N-1, and leave `pcs = 0`; the next one is written to slot 0 with cycle 0. -/
def Obligations.EventRingTogglesItsCycle : Prop :=
  ∀ (base : Addr) (N : Nat) (e0 : EventRing) (ts : List Trb) (t : Trb),
    EventRing.setSegments [(base, N)] = some e0 → ts.length = N →
    ∃ e1 e2, e0.postAll ts = some e1 ∧ e1.pcs = false ∧ e1.eseg = 0 ∧ e1.eidx = 0
      ∧ (∀ k < N, e1.at 0 k = encodeTrb (setCycle (ts.getD k default) true))
      ∧ e1.post t = some e2 ∧ e2.at 0 0 = encodeTrb (setCycle t false)

/-- R221: an event is dropped, and nothing changes, where the interrupter does not exist or its ring has no segment;
else the event, with the producer's cycle bit in control bit 0, is written at the producer's position, and the position
advances: at a segment's end to the next segment, wrapping, with the cycle bit flipped. There is no full check. -/
def Obligations.PostEventRule : Prop :=
  ∀ (s : State) (n : Nat) (e : Trb),
    (s.cfg.maxIntrs ≤ n ∨ (s.evRing n).segs = [] → s.postEvent n e = (s, false))
      ∧ (n < s.cfg.maxIntrs → (s.evRing n).segs ≠ [] →
        ∃ r, s.postEvent n e = ({ s with evRings := s.evRings.set n r }, true)
          ∧ r.segs = (s.evRing n).segs.modify (s.evRing n).eseg (fun g => { g with
              slots := g.slots.set (s.evRing n).eidx (encodeTrb { e with
                control := w32 (e.control.toNat / 2 * 2 + digit (s.evRing n).pcs 0) }) })
          ∧ ((s.evRing n).eidx + 1 = ((s.evRing n).seg (s.evRing n).eseg).size →
            r.eidx = 0 ∧ r.eseg = ((s.evRing n).eseg + 1) % (s.evRing n).segs.length
              ∧ r.pcs = !(s.evRing n).pcs)
          ∧ ((s.evRing n).eidx + 1 ≠ ((s.evRing n).seg (s.evRing n).eseg).size →
            r.eidx = (s.evRing n).eidx + 1 ∧ r.eseg = (s.evRing n).eseg ∧ r.pcs = (s.evRing n).pcs)
          ∧ r.dseg = (s.evRing n).dseg ∧ r.didx = (s.evRing n).didx ∧ r.gseg = (s.evRing n).gseg
          ∧ r.gidx = (s.evRing n).gidx ∧ r.gccs = (s.evRing n).gccs)

/-- R222 (the end of a segment modulo 2^64, R13; log 18): the dequeue position becomes the slot holding the pointer in
the first segment that holds it; a pointer in no segment changes nothing; nothing else changes. -/
def Obligations.EventDequeuePointerSearch : Prop :=
  ∀ (e : EventRing) (ptr : Addr),
    (∀ k, ∀ hk : k < e.segs.length,
        e.segs[k].base ≤ ptr → ptr < e.segs[k].base + BitVec.ofNat 64 (16 * e.segs[k].size) →
        (∀ j, ∀ hj : j < k, ¬ (e.segs[j].base ≤ ptr ∧ ptr < e.segs[j].base + BitVec.ofNat 64 (16 * e.segs[j].size))) →
        e.setDequeuePtr ptr = { e with dseg := k, didx := (ptr.toNat - e.segs[k].base.toNat) / 16 })
      ∧ ((∀ g ∈ e.segs, ¬ (g.base ≤ ptr ∧ ptr < g.base + BitVec.ofNat 64 (16 * g.size))) → e.setDequeuePtr ptr = e)

/-! ### Addresses -/

/-- R406, R407, R408: an allocation answers the lowest free address and marks it, and None, with no change, where none
is free; freeing marks an address of 1 to NUM_ADDR free and is a no-op for every other; from an empty bitmap k ≤
NUM_ADDR allocations answer k last, and the freed address is the next one answered. -/
def Obligations.AddressAllocator : Prop :=
  ∀ s : State,
    (∀ a, 1 ≤ a → a ≤ s.cfg.numAddr → s.addrUsed.getD a true = false →
        (∀ b, 1 ≤ b → b < a → s.addrUsed.getD b true = true) →
        s.allocateAddress = some (a, { s with addrUsed := s.addrUsed.set a true }))
      ∧ ((∀ b, 1 ≤ b → b ≤ s.cfg.numAddr → s.addrUsed.getD b true = true) → s.allocateAddress = none)
      ∧ (∀ a, 1 ≤ a → a ≤ s.cfg.numAddr → s.freeAddress a = { s with addrUsed := s.addrUsed.set a false })
      ∧ (∀ a, a = 0 ∨ s.cfg.numAddr < a → s.freeAddress a = s)
      ∧ (∀ k, 1 ≤ k → k ≤ s.cfg.numAddr →
        s.addrUsed = (List.range (s.cfg.numAddr + 1)).map (fun j => decide (1 ≤ j ∧ j < k)) →
        ∃ t, s.allocateAddress = some (k, t)
          ∧ t.addrUsed = (List.range (s.cfg.numAddr + 1)).map (fun j => decide (1 ≤ j ∧ j < k + 1)))
      ∧ (s.addrUsed = (List.range (s.cfg.numAddr + 1)).map (fun j => decide (1 ≤ j)) →
        s.allocateAddress = none
          ∧ ∀ a, 1 ≤ a → a ≤ s.cfg.numAddr → ∃ t, (s.freeAddress a).allocateAddress = some (a, t))

/-! ### The register banks -/

/-- R150 to R156, R252, R253: the seven Capability words at any configuration, their values on this hardware, and that
a write to one changes nothing. -/
def Obligations.CapabilityBankIsConstant : Prop :=
  ∀ s : State, s.cfg.ok = true →
    RegisterLaw .caplengthHciversion s (w32 (s.cfg.version.toNat * 2 ^ 16 + s.cfg.capLength)) (fun _ => s)
      ∧ RegisterLaw .hcsparams1 s
        (w32 (s.cfg.maxPorts * 2 ^ 24 + s.cfg.maxIntrs * 2 ^ 8 + s.cfg.maxSlots)) (fun _ => s)
      ∧ RegisterLaw .hcsparams2 s (w32 (s.cfg.erstMaxExp * 2 ^ 4)) (fun _ => s)
      ∧ RegisterLaw .hcsparams3 s 0 (fun _ => s)
      ∧ RegisterLaw .hccparams1 s 0x81 (fun _ => s)
      ∧ RegisterLaw .dboff s (w32 s.cfg.dbOff) (fun _ => s)
      ∧ RegisterLaw .rtsoff s (w32 s.cfg.rtsOff) (fun _ => s)
      ∧ (s.cfg = Config.hardware →
        RegisterLaw .caplengthHciversion s 0x01000020 (fun _ => s)
          ∧ RegisterLaw .hcsparams1 s 0x08000820 (fun _ => s) ∧ RegisterLaw .hcsparams2 s 0x00000040 (fun _ => s)
          ∧ RegisterLaw .dboff s 0x00003000 (fun _ => s) ∧ RegisterLaw .rtsoff s 0x00002000 (fun _ => s))

/-- R84, R250: an access that names no register returns 0 for a read and changes nothing for a write; so do the accesses
to port registers, interrupter sets and doorbells that the configuration does not have. -/
def Obligations.OutOfRangeAccesses : Prop :=
  ∀ s : State,
    (∀ a : MmioAccess, exec (.outOfRange a) s = .next { s with result := if a.isWrite then .none else .value 0 })
      ∧ (∀ p, s.cfg.maxPorts ≤ p → RegisterLaw (.portsc p) s 0 (fun _ => s) ∧ RegisterLaw (.portpmsc p) s 0 (fun _ => s)
        ∧ ∀ h, RegisterLaw (.portliPorthlpmc p h) s 0 (fun _ => s))
      ∧ (∀ n, s.cfg.maxIntrs ≤ n → RegisterLaw (.iman n) s 0 (fun _ => s) ∧ RegisterLaw (.imod n) s 0 (fun _ => s)
        ∧ RegisterLaw (.erstsz n) s 0 (fun _ => s) ∧ RegisterLaw (.erstbaLo n) s 0 (fun _ => s)
        ∧ RegisterLaw (.erstbaHi n) s 0 (fun _ => s) ∧ RegisterLaw (.erdpLo n) s 0 (fun _ => s)
        ∧ RegisterLaw (.erdpHi n) s 0 (fun _ => s))
      ∧ (∀ i, s.cfg.maxSlots < i → RegisterLaw (.db i) s 0 (fun _ => s))

/-- R260, R261, R262: USBCMD reads its stored bits, HCRST as 0; a write with bit 1 set runs `controller_reset()` and
discards the rest of the value; any other write stores R/S, INTE, HSEE and EWE, ignores every other bit, and sets the
run state from R/S. -/
def Obligations.UsbcmdRule : Prop :=
  ∀ s : State, RegisterLaw .usbcmd s
    (w32 (digit s.usbcmd.ewe 10 + digit s.usbcmd.hsee 3 + digit s.usbcmd.inte 2 + digit s.usbcmd.rs 0))
    (fun v =>
      if v.getLsbD 1 then controllerReset s
      else
        { s with
          usbcmd := ⟨v.getLsbD 0, v.getLsbD 2, v.getLsbD 3, v.getLsbD 10⟩
          ctrl := if v.getLsbD 0 then .running else .halted })

/-- R461, R462, R463, with the HCRST columns of R34 to R49: what `controller_reset()` leaves, every field of it. That it
clears WCE, WDE and WOE (log 14) and keeps the guest's event cursor (log 15) is the model's reading. -/
def Obligations.ControllerResetLeaves : Prop :=
  ∀ s : State, controllerReset s =
    { s with
      ctrl := .halted
      crcrPtr := 0
      crcrRcs := false
      dcbaap := 0
      usbcmd := ⟨false, false, false, false⟩
      usbsts := ⟨false, false, false, false⟩
      dnctrl := 0
      maxSlotsEn := 0
      cmdRing := ⟨false, 0, 0, [], 0, true, 0, true⟩
      cmdState := .stopped
      intrs := List.replicate s.intrs.length ⟨false, false, 0x0FA0, 0, 0, 0, 0, 0, false⟩
      evRings := s.evRings.map (fun e => ⟨[], 0, 0, true, 0, 0, e.gseg, e.gidx, e.gccs⟩)
      db := List.replicate s.db.length 0
      ports := s.ports.map (fun q =>
        ⟨q.ccs, false, if q.ccs then 7 else 5, true, q.speed, q.ccs, false, false, false, false, false, false, 0,
          q.slot⟩)
      slotTab := s.slotTab.map (fun o => o.map (fun d =>
        { d with
          ctx := ⟨d.ctx.routeString, 0, .disabled, d.ctx.speed⟩
          eps := d.eps.map (fun c => ⟨.disabled, c.type⟩)
          rings := d.rings.map (fun r => { r with init := false })
          ctlResp := []
          draining := List.replicate d.draining.length false }))
      addrUsed := List.replicate s.addrUsed.length false }

/-- R264, R265, R266, R270, R274: USBSTS reads HCH from the run state and its stored bits, and a write clears the bits
written as 1; PAGESIZE reads 1 and ignores writes; DNCTRL and CONFIG store their low 16 and 8 bits; each half of DCBAAP
stores its pointer bits, and bits 5:0 read 0; PORTPMSC stores its word; PORTLI and PORTHLPMC read 0 and ignore writes. -/
def Obligations.StatusAndPlainRegisters : Prop :=
  ∀ s : State,
    RegisterLaw .usbsts s
        (w32 (digit s.usbsts.sre 10 + digit s.usbsts.pcd 4 + digit s.usbsts.eint 3 + digit s.usbsts.hse 2
          + digit (decide (s.ctrl = .halted)) 0))
        (fun v => { s with usbsts :=
          ⟨if v.getLsbD 2 then false else s.usbsts.hse, if v.getLsbD 3 then false else s.usbsts.eint,
            if v.getLsbD 4 then false else s.usbsts.pcd, if v.getLsbD 10 then false else s.usbsts.sre⟩ })
      ∧ RegisterLaw .pagesize s 1 (fun _ => s)
      ∧ RegisterLaw .dnctrl s (w32 s.dnctrl.toNat) (fun v => { s with dnctrl := BitVec.ofNat 16 v.toNat })
      ∧ RegisterLaw .dcbaapLo s (w32 (s.dcbaap.toNat * 64)) (fun v => { s with dcbaap := low6 s.dcbaap v })
      ∧ RegisterLaw .dcbaapHi s (w32 (s.dcbaap.toNat * 64 / 2 ^ 32)) (fun v => { s with dcbaap := high6 s.dcbaap v })
      ∧ RegisterLaw .config s (w32 s.maxSlotsEn.toNat) (fun v => { s with maxSlotsEn := BitVec.ofNat 8 v.toNat })
      ∧ (∀ p < s.cfg.maxPorts,
        RegisterLaw (.portpmsc p) s (s.port p).portpmsc (fun v => s.modifyPort p (fun q => { q with portpmsc := v }))
          ∧ ∀ h, RegisterLaw (.portliPorthlpmc p h) s 0 (fun _ => s))

/-- R267, R268, R269, R202: CRCR reads CRR only. A low write with CS or CA set stops or aborts a Running command ring
and posts Command Ring Stopped, and stores nothing. Any other write stores its half, and where the pointer is not 0 and
the ring is uninitialised or empty makes a new Running ring of CMD_RING_SIZE zeroed slots at it. -/
def Obligations.CrcrRule : Prop :=
  ∀ s : State, s.cfg.ok = true →
    let ring : BitVec 58 → Ring := fun p =>
      ⟨true, BitVec.ofNat 64 (p.toNat * 64), s.cfg.cmdRingSize, List.replicate s.cfg.cmdRingSize 0, 0, true, 0, true⟩
    let free : Prop :=
      s.cmdRing.init = false ∨ (s.cmdRing.slots.getD s.cmdRing.deq 0).getLsbD 96 ≠ s.cmdRing.ccs
    let stop : CmdRingState → State := fun st =>
      ({ s with cmdState := st }.postEvent 0
        (completionTrb (s.cmdRing.base + BitVec.ofNat 64 (16 * s.cmdRing.deq)) 0 24 0)).1
    (∀ lane, exec (.crcrLo (.read lane)) s
        = .next { s with result := .value (laneValue lane (w32 (digit (decide (s.cmdState = .running)) 3))) })
      ∧ (∀ lane, exec (.crcrHi (.read lane)) s = .next { s with result := .value 0 })
      ∧ (∀ lane, exec (.crcrLo (.writeNarrow lane)) s = .next { s with result := .none }
        ∧ exec (.crcrHi (.writeNarrow lane)) s = .next { s with result := .none })
      ∧ (∀ v : Word, (v.getLsbD 1 = true ∨ v.getLsbD 2 = true) →
        exec (.crcrLo (.write v)) s
          = .next { (if s.cmdState = .running then stop (if v.getLsbD 2 then .aborted else .stopped) else s) with
              result := .none })
      ∧ (∀ v : Word, v.getLsbD 1 = false → v.getLsbD 2 = false →
        (low6 s.crcrPtr v ≠ 0 ∧ free →
          exec (.crcrLo (.write v)) s
            = .next { s with
                crcrPtr := low6 s.crcrPtr v, crcrRcs := v.getLsbD 0, cmdRing := ring (low6 s.crcrPtr v),
                cmdState := .running, result := .none })
        ∧ (¬ (low6 s.crcrPtr v ≠ 0 ∧ free) →
          exec (.crcrLo (.write v)) s
            = .next { s with crcrPtr := low6 s.crcrPtr v, crcrRcs := v.getLsbD 0, result := .none }))
      ∧ (∀ v : Word,
        (high6 s.crcrPtr v ≠ 0 ∧ free →
          exec (.crcrHi (.write v)) s
            = .next { s with
                crcrPtr := high6 s.crcrPtr v, cmdRing := ring (high6 s.crcrPtr v), cmdState := .running,
                result := .none })
        ∧ (¬ (high6 s.crcrPtr v ≠ 0 ∧ free) →
          exec (.crcrHi (.write v)) s = .next { s with crcrPtr := high6 s.crcrPtr v, result := .none }))

/-- R271, R272, R273, R402: what PORTSC reads; a write clears the change bits and PED where it is 1, stores WCE, WDE and
WOE, and with bit 4 resets the port: PED and U0 on a connected port, PRC, and one Port Status Change Event. -/
def Obligations.PortscRule : Prop :=
  ∀ (s : State) (p : Nat), p < s.cfg.maxPorts →
    let q := s.port p
    let written : Word → Port → Port := fun v q =>
      { q with
        csc := if v.getLsbD 17 then false else q.csc
        pec := if v.getLsbD 18 then false else q.pec
        wrc := if v.getLsbD 19 then false else q.wrc
        prc := if v.getLsbD 4 then true else if v.getLsbD 21 then false else q.prc
        ped := if v.getLsbD 4 && q.ccs then true else if v.getLsbD 1 then false else q.ped
        pls := if v.getLsbD 4 && q.ccs then 0 else q.pls
        wce := v.getLsbD 25
        wde := v.getLsbD 26
        woe := v.getLsbD 27 }
    RegisterLaw (.portsc p) s
      (w32 (digit q.woe 27 + digit q.wde 26 + digit q.wce 25 + digit q.prc 21 + digit q.wrc 19 + digit q.pec 18
        + digit q.csc 17 + q.speed.toNat * 2 ^ 10 + digit q.pp 9 + q.pls.toNat * 2 ^ 5 + digit q.ped 1 + digit q.ccs 0))
      (fun v => if v.getLsbD 4 then portChanged (s.modifyPort p (written v)) p else s.modifyPort p (written v))

/-- R36, R82, R280 (the form of the draw: log 11): a read of MFINDEX, of any lane, takes the next drawn value of 14 bits,
or a free value where none is listed; a write does nothing. -/
def Obligations.MfindexDraws : Prop :=
  ∀ (s : State) (lane : Lane),
    (∀ v r, s.draws.mfindex = v :: r →
        exec (.mfindex (.read lane)) s
          = .next { s with
              draws := { s.draws with mfindex := r }, result := .value (laneValue lane (w32 v.toNat)) })
      ∧ (s.draws.mfindex = [] →
        exec (.mfindex (.read lane)) s
          = .next { s with
              draws := { s.draws with count := s.draws.count + 1 }
              result := .value (laneValue lane (w32 (Config.freeMfindex s.draws.count).toNat)) })
      ∧ (∀ v, exec (.mfindex (.write v)) s = .next { s with result := .none })
      ∧ exec (.mfindex (.writeNarrow lane)) s = .next { s with result := .none }

/-- R281, R282: IMAN's pending bit clears where written 1 and its enable bit is stored; IMOD stores both halves; ERSTSZ
stores its low 16 bits and loads nothing. -/
def Obligations.ImanImodErstszRules : Prop :=
  ∀ (s : State) (n : Nat), n < s.cfg.maxIntrs →
    RegisterLaw (.iman n) s (w32 (digit (s.intr n).ie 1 + digit (s.intr n).ip 0))
        (fun v => s.modifyIntr n (fun i =>
          { i with ip := if v.getLsbD 0 then false else i.ip, ie := v.getLsbD 1 }))
      ∧ RegisterLaw (.imod n) s (w32 ((s.intr n).imodc.toNat * 2 ^ 16 + (s.intr n).imodi.toNat))
        (fun v => s.modifyIntr n (fun i =>
          { i with imodi := BitVec.ofNat 16 v.toNat, imodc := BitVec.ofNat 16 (v.toNat / 2 ^ 16) }))
      ∧ RegisterLaw (.erstsz n) s (w32 (s.intr n).erstsz.toNat)
        (fun v => s.modifyIntr n (fun i => { i with erstsz := BitVec.ofNat 16 v.toNat }))

/-- R220, R283: ERSTBA reads its halves, bits 5:0 as 0. A write stores its half, and where ERSTSZ is 1 to 2^ERST_MAX_EXP
reads that many entries in order, stopping at the first MemFault; where all are read and each has a base and a size, the
event ring gets those segments, with zeroed slots and every cursor at the start; else the ring is unchanged. -/
def Obligations.ErstbaLoadsSegments : Prop :=
  ∀ (s : State) (n : Nat), n < s.cfg.maxIntrs →
    let entry : List Byte → Addr × Nat := fun e =>
      (BitVec.ofNat 64 (leNat (e.take 8) / 64 * 64), leNat ((e.drop 8).take 2))
    let reads : Nat → State → Option (List (Addr × Nat)) × State := fun k s1 =>
      (List.range k).foldl
        (fun acc j =>
          match acc.1 with
          | none => acc
          | some gs =>
            let r := acc.2.memRead (BitVec.ofNat 64 ((s1.intr n).erstba.toNat * 64 + 16 * j)) 16
            (r.1.map (fun e => gs ++ [entry e]), r.2))
        (some [], s1)
    let load : State → State := fun s1 =>
      if (s.intr n).erstsz.toNat = 0 ∨ 2 ^ s.cfg.erstMaxExp < (s.intr n).erstsz.toNat then s1
      else
        match reads (s.intr n).erstsz.toNat s1 with
        | (none, s2) => s2
        | (some gs, s2) =>
          if gs.any (fun g => decide (g.2 = 0 ∨ g.1 = 0)) then s2
          else
            { s2 with
              evRings := s2.evRings.set n
                ⟨gs.map (fun g => ⟨g.1, g.2, List.replicate g.2 0⟩), 0, 0, true, 0, 0, 0, 0, true⟩ }
    RegisterLaw (.erstbaLo n) s (w32 ((s.intr n).erstba.toNat * 64))
        (fun v => load (s.modifyIntr n (fun i => { i with erstba := low6 i.erstba v })))
      ∧ RegisterLaw (.erstbaHi n) s (w32 ((s.intr n).erstba.toNat * 64 / 2 ^ 32))
        (fun v => load (s.modifyIntr n (fun i => { i with erstba := high6 i.erstba v })))

/-- R285: ERDP reads the pointer, EHB and DESI. A low write stores DESI and pointer bits 31:4 and clears EHB where it is
1; a high write stores pointer bits 63:32; each then sets the event ring's dequeue position from the whole pointer. -/
def Obligations.ErdpRule : Prop :=
  ∀ (s : State) (n : Nat), n < s.cfg.maxIntrs →
    let update : State → State := fun s1 =>
      { s1 with
        evRings := s1.evRings.set n
          ((s1.evRing n).setDequeuePtr (BitVec.ofNat 64 ((s1.intr n).erdpPtr.toNat * 16))) }
    RegisterLaw (.erdpLo n) s
        (w32 ((s.intr n).erdpPtr.toNat * 16 + digit (s.intr n).ehb 3 + (s.intr n).desi.toNat))
        (fun v => update (s.modifyIntr n (fun i =>
          { i with
            desi := BitVec.ofNat 3 v.toNat
            erdpPtr := low4 i.erdpPtr v
            ehb := if v.getLsbD 3 then false else i.ehb })))
      ∧ RegisterLaw (.erdpHi n) s (w32 ((s.intr n).erdpPtr.toNat * 16 / 2 ^ 32))
        (fun v => update (s.modifyIntr n (fun i => { i with erdpPtr := high4 i.erdpPtr v })))

/-- R290, R291, R372: a doorbell reads its stored target, with no side effect. Every write of doorbell 0 stores the low
byte, whatever it is; where the controller is Running and the command ring is initialised or already Running the ring
is Running after it and its drain starts under the lock (the drain's form: log 4); else nothing is drained. -/
def Obligations.CommandDoorbell : Prop :=
  ∀ s : State,
    (∀ i lane, i ≤ s.cfg.maxSlots →
        exec (.db i (.read lane)) s
            = .next { s with result := .value (laneValue lane (w32 (s.db.getD i 0).toNat)) }
          ∧ exec (.db i (.writeNarrow lane)) s = .next { s with result := .none })
      ∧ (∀ v : Word, s.ctrl = .running ∧ (s.cmdRing.init = true ∨ s.cmdState = .running) →
        exec (.db 0 (.write v)) s
          = .next { s with
              db := s.db.set 0 (BitVec.ofNat 8 v.toNat), cmdState := .running,
              locked := some ⟨.cmdDrain false, s.cont⟩, cont := none, result := .none })
      ∧ (∀ v : Word, ¬ (s.ctrl = .running ∧ (s.cmdRing.init = true ∨ s.cmdState = .running)) →
        exec (.db 0 (.write v)) s
          = .next { s with db := s.db.set 0 (BitVec.ofNat 8 v.toNat), result := .none })

/-- R290, R371, R373, R374, R380: a write of the doorbell of a slot stores the low byte; for a missing slot, an endpoint
outside 1 to 31, or (with a split drain) an endpoint whose drain is in progress, nothing else happens; else a drain of
the endpoint starts, whatever the run state (the drain's form: log 3, 4). -/
def Obligations.TransferDoorbell : Prop :=
  ∀ (s : State) (i : Nat) (v : Word), 1 ≤ i → i ≤ s.cfg.maxSlots →
    let e := v.toNat % 256
    let s1 : State := { s with db := s.db.set i (BitVec.ofNat 8 v.toNat), result := .none }
    (s.slotAt i = none → exec (.db i (.write v)) s = .next s1)
      ∧ (∀ d, s.slotAt i = some d →
        (¬ (1 ≤ e ∧ e < s.cfg.numEp) → exec (.db i (.write v)) s = .next s1)
          ∧ ((1 ≤ e ∧ e < s.cfg.numEp) → s.cfg.atomicTransferDrain = true →
            exec (.db i (.write v)) s
              = .next { s1 with locked := some ⟨.xferDrain i d.serial e false, s.cont⟩, cont := none })
          ∧ ((1 ≤ e ∧ e < s.cfg.numEp) → s.cfg.atomicTransferDrain = false → d.draining.getD e false = true →
            exec (.db i (.write v)) s = .next s1)
          ∧ ((1 ≤ e ∧ e < s.cfg.numEp) → s.cfg.atomicTransferDrain = false → d.draining.getD e false = false →
            exec (.db i (.write v)) s
              = .next { s1 with
                  slotTab := s.slotTab.set i (some { d with draining := d.draining.set e true })
                  tasks := s.tasks ++ [⟨.xferDrain i d.serial e false, s.cont⟩]
                  cont := none }))

/-! ### Commands -/

/-- R321, R345, R346: on the command ring the types 18 to 22, the transfer types and the event types complete with TRB
Error and the TRB's Slot ID, an unrecognised type with TRB Error and the raw bits 31:24 of its control word, and a
command of types 10 to 17 that names slot 0, a slot above MAX_SLOTS or an empty entry of the slot table with Slot Not
Enabled and its Slot ID; nothing else changes. -/
def Obligations.CommandsCompletedWithoutEffect : Prop :=
  ∀ s : State, s.unit = .command →
    (∀ mk ∈ notCommands, ∀ t : Trb,
        exec (mk t) s = .next (afterCommand s (pastCommand s) (t.control.toNat / 2 ^ 24) 5 0))
      ∧ (∀ b : Raw, exec (.malformedTrb b) s = .next (afterCommand s (pastCommand s) (b.toNat / 2 ^ 120) 5 0))
      ∧ (∀ t : Trb,
        (t.control.toNat / 2 ^ 24 = 0 ∨ s.cfg.maxSlots < t.control.toNat / 2 ^ 24
          ∨ s.slotTab.getD (t.control.toNat / 2 ^ 24) none = none) →
        ∀ mk ∈ slotCommands,
          exec (mk t) s = .next (afterCommand s (pastCommand s) (t.control.toNat / 2 ^ 24) 11 0))

/-- R322: Enable Slot makes the lowest attached slot still Disabled Default and completes with Success and its id; with
none it completes with No Slots Available and slot id 0. The TRB's fields are not read. -/
def Obligations.EnableSlotRule : Prop :=
  ∀ (s : State) (t : Trb), s.unit = .command →
    (∀ sid d, s.slotAt sid = some d → d.ctx.state = .disabled →
        (∀ j d', j < sid → s.slotAt j = some d' → d'.ctx.state ≠ .disabled) →
        exec (.enableSlot t) s
          = .next (afterCommand s
              ((pastCommand s).setSlot sid (some { d with ctx := { d.ctx with state := .default } })) sid 1 0))
      ∧ ((∀ j d', s.slotAt j = some d' → d'.ctx.state ≠ .disabled) →
        exec (.enableSlot t) s = .next (afterCommand s (pastCommand s) 0 9 0))

/-- R324: Disable Slot on a slot that is not Disabled frees its address and leaves it Disabled with address 0, endpoints
1 to 31 Disabled with uninitialised rings, and no pending control response; on a Disabled slot it completes with Slot
Not Enabled and changes nothing. The Device Slot stays, with its port, device, speed and route. -/
def Obligations.DisableSlotRule : Prop :=
  ∀ (s : State) (t : Trb) (d : DeviceSlot), s.unit = .command → s.slotAt (t.control.toNat / 2 ^ 24) = some d →
    let sid := t.control.toNat / 2 ^ 24
    (d.ctx.state = .disabled → exec (.disableSlot t) s = .next (afterCommand s (pastCommand s) sid 11 0))
      ∧ (d.ctx.state ≠ .disabled →
        ∃ d' : DeviceSlot,
          exec (.disableSlot t) s
            = .next (afterCommand s { pastCommand s with
                slotTab := s.slotTab.set sid (some d')
                addrUsed := if 1 ≤ d.ctx.deviceAddress ∧ d.ctx.deviceAddress ≤ s.cfg.numAddr
                  then s.addrUsed.set d.ctx.deviceAddress false else s.addrUsed } sid 1 0)
          ∧ d'.ctx = ⟨d.ctx.routeString, 0, .disabled, d.ctx.speed⟩ ∧ d'.ctlResp = []
          ∧ d'.port = d.port ∧ d'.dev = d.dev ∧ d'.serial = d.serial ∧ d'.draining = d.draining
          ∧ d'.eps.length = d.eps.length ∧ d'.rings.length = d.rings.length
          ∧ (∀ e, (d'.eps.getD e EpContext.fresh).type = (d.eps.getD e EpContext.fresh).type
            ∧ d'.epState e = if 1 ≤ e then .disabled else d.epState e)
          ∧ (∀ e, d'.ring e = if 1 ≤ e then { d.ring e with init := false } else d.ring e))

/-- R326: Address Device gives a Disabled or Default slot the lowest free address, makes it Addressed and its endpoint 1
Running, and completes with Success and the address; with no free address it completes with No Slots Available, on an
Addressed or Configured slot with Context State Error, and changes nothing. -/
def Obligations.AddressDeviceRule : Prop :=
  ∀ (s : State) (t : Trb) (d : DeviceSlot), s.unit = .command → s.slotAt (t.control.toNat / 2 ^ 24) = some d →
    let sid := t.control.toNat / 2 ^ 24
    ((d.ctx.state = .addressed ∨ d.ctx.state = .configured) →
        exec (.addressDevice t) s = .next (afterCommand s (pastCommand s) sid 19 0))
      ∧ ((d.ctx.state = .disabled ∨ d.ctx.state = .default) →
        (∀ a, 1 ≤ a → a ≤ s.cfg.numAddr → a < 2 ^ 24 → s.addrUsed.getD a true = false →
            (∀ b, 1 ≤ b → b < a → s.addrUsed.getD b true = true) →
            exec (.addressDevice t) s
              = .next (afterCommand s { pastCommand s with
                  addrUsed := s.addrUsed.set a true
                  slotTab := s.slotTab.set sid (some { d with
                    ctx := ⟨d.ctx.routeString, a, .addressed, d.ctx.speed⟩
                    eps := d.eps.modify 1 (fun c => { c with state := .running }) }) } sid 1 a))
          ∧ ((∀ b, 1 ≤ b → b ≤ s.cfg.numAddr → s.addrUsed.getD b true = true) →
            exec (.addressDevice t) s = .next (afterCommand s (pastCommand s) sid 9 0)))

/-- R329, R331, R344: Configure Endpoint always completes with Success; it makes an Addressed slot Configured and, on a
slot then Configured, every Disabled endpoint 2 to 31 Running; on a Disabled or Default slot it changes nothing.
Evaluate Context completes with Success and changes nothing. No Op completes with Success and slot id 0. -/
def Obligations.ConfigureEvaluateAndNoOp : Prop :=
  ∀ (s : State) (t : Trb), s.unit = .command →
    exec (.noopCommand t) s = .next (afterCommand s (pastCommand s) 0 1 0)
      ∧ (∀ d, s.slotAt (t.control.toNat / 2 ^ 24) = some d →
        let sid := t.control.toNat / 2 ^ 24
        exec (.evaluateContext t) s = .next (afterCommand s (pastCommand s) sid 1 0)
          ∧ ∃ d' : DeviceSlot,
            exec (.configureEndpoint t) s
              = .next (afterCommand s { pastCommand s with slotTab := s.slotTab.set sid (some d') } sid 1 0)
            ∧ (d.ctx.state = .disabled ∨ d.ctx.state = .default → d' = d)
            ∧ (d.ctx.state = .addressed ∨ d.ctx.state = .configured →
              d'.ctx = ⟨d.ctx.routeString, d.ctx.deviceAddress, .configured, d.ctx.speed⟩
                ∧ d'.port = d.port ∧ d'.dev = d.dev ∧ d'.serial = d.serial ∧ d'.rings = d.rings
                ∧ d'.ctlResp = d.ctlResp ∧ d'.draining = d.draining ∧ d'.eps.length = d.eps.length
                ∧ ∀ e < d.eps.length, (d'.eps.getD e EpContext.fresh).type = (d.eps.getD e EpContext.fresh).type
                  ∧ d'.epState e = if 2 ≤ e ∧ d.epState e = .disabled then .running else d.epState e))

/-- R332, R333, R336: Reset Endpoint moves Running to Halted and Halted or Error to Running, Stop Endpoint moves Running
to Stopped and Stopped to Running, each leaves the other states; the completion is Success in every state, and TRB Error
with no change for an endpoint id outside 1 to 31. Nothing else changes. -/
def Obligations.ResetAndStopEndpointRules : Prop :=
  ∀ (s : State) (t : Trb) (d : DeviceSlot), s.unit = .command → s.slotAt (t.control.toNat / 2 ^ 24) = some d →
    let sid := t.control.toNat / 2 ^ 24
    let e := t.control.toNat / 2 ^ 16 % 32
    let becomes : EpState → State := fun st => { pastCommand s with
      slotTab := s.slotTab.set sid (some { d with eps := d.eps.modify e (fun c => { c with state := st }) }) }
    (¬ (1 ≤ e ∧ e < s.cfg.numEp) →
        exec (.resetEndpoint t) s = .next (afterCommand s (pastCommand s) sid 5 0)
          ∧ exec (.stopEndpoint t) s = .next (afterCommand s (pastCommand s) sid 5 0))
      ∧ ((1 ≤ e ∧ e < s.cfg.numEp) →
        (d.epState e = .running →
            exec (.resetEndpoint t) s = .next (afterCommand s (becomes .halted) sid 1 0)
              ∧ exec (.stopEndpoint t) s = .next (afterCommand s (becomes .stopped) sid 1 0))
          ∧ (d.epState e = .halted →
            exec (.resetEndpoint t) s = .next (afterCommand s (becomes .running) sid 1 0)
              ∧ exec (.stopEndpoint t) s = .next (afterCommand s (becomes .halted) sid 1 0))
          ∧ (d.epState e = .error →
            exec (.resetEndpoint t) s = .next (afterCommand s (becomes .running) sid 1 0)
              ∧ exec (.stopEndpoint t) s = .next (afterCommand s (becomes .error) sid 1 0))
          ∧ (d.epState e = .stopped →
            exec (.resetEndpoint t) s = .next (afterCommand s (becomes .stopped) sid 1 0)
              ∧ exec (.stopEndpoint t) s = .next (afterCommand s (becomes .running) sid 1 0))
          ∧ (d.epState e = .disabled →
            exec (.resetEndpoint t) s = .next (afterCommand s (becomes .disabled) sid 1 0)
              ∧ exec (.stopEndpoint t) s = .next (afterCommand s (becomes .disabled) sid 1 0)))

/-- R233, R339 (the ring's end modulo 2^64, R13; log 18): Set TR Dequeue Pointer moves the consumer of an initialised
ring to the slot holding the pointer and takes its cycle state from bit 0; a pointer outside the ring changes nothing;
the completion is Success either way, and TRB Error for an endpoint id outside 1 to 31. -/
def Obligations.SetTrDequeuePointerRule : Prop :=
  ∀ (s : State) (t : Trb) (d : DeviceSlot), s.unit = .command → s.slotAt (t.control.toNat / 2 ^ 24) = some d →
    let sid := t.control.toNat / 2 ^ 24
    let e := t.control.toNat / 2 ^ 16 % 32
    let r := d.ring e
    let ptr : Addr := BitVec.ofNat 64 (t.parameter.toNat / 16 * 16)
    (¬ (1 ≤ e ∧ e < s.cfg.numEp) →
        exec (.setTrDequeuePointer t) s = .next (afterCommand s (pastCommand s) sid 5 0))
      ∧ ((1 ≤ e ∧ e < s.cfg.numEp) →
        (r.init = true ∧ r.base ≤ ptr ∧ ptr < r.base + BitVec.ofNat 64 (16 * r.size) →
            exec (.setTrDequeuePointer t) s
              = .next (afterCommand s ((pastCommand s).setSlot sid (some (d.setRing e
                  { r with deq := (ptr.toNat - r.base.toNat) / 16, ccs := t.parameter.getLsbD 0 }))) sid 1 0))
          ∧ (¬ (r.init = true ∧ r.base ≤ ptr ∧ ptr < r.base + BitVec.ofNat 64 (16 * r.size)) → e < d.rings.length →
            exec (.setTrDequeuePointer t) s
              = .next (afterCommand s ((pastCommand s).setSlot sid (some d)) sid 1 0)))

/-- R342: Reset Device on a slot that is not Disabled calls the device's `reset()` once, frees the address and leaves the
slot Default with address 0, endpoints 2 to 31 Disabled with uninitialised rings, endpoint 1 as it was, and no pending
control response; on a Disabled slot it completes with Slot Not Enabled, calls nothing and changes nothing. -/
def Obligations.ResetDeviceRule : Prop :=
  ∀ (s : State) (t : Trb) (d : DeviceSlot), s.unit = .command → s.slotAt (t.control.toNat / 2 ^ 24) = some d →
    let sid := t.control.toNat / 2 ^ 24
    (d.ctx.state = .disabled → exec (.resetDevice t) s = .next (afterCommand s (pastCommand s) sid 11 0))
      ∧ (d.ctx.state ≠ .disabled →
        ∃ d' : DeviceSlot,
          exec (.resetDevice t) s
            = .next (afterCommand s { pastCommand s with
                slotTab := s.slotTab.set sid (some d')
                calls := s.calls ++ [.reset d.dev]
                addrUsed := if 1 ≤ d.ctx.deviceAddress ∧ d.ctx.deviceAddress ≤ s.cfg.numAddr
                  then s.addrUsed.set d.ctx.deviceAddress false else s.addrUsed } sid 1 0)
          ∧ d'.ctx = ⟨d.ctx.routeString, 0, .default, d.ctx.speed⟩ ∧ d'.ctlResp = []
          ∧ d'.port = d.port ∧ d'.dev = d.dev ∧ d'.serial = d.serial ∧ d'.draining = d.draining
          ∧ d'.eps.length = d.eps.length ∧ d'.rings.length = d.rings.length
          ∧ (∀ e, (d'.eps.getD e EpContext.fresh).type = (d.eps.getD e EpContext.fresh).type
            ∧ d'.epState e = if 2 ≤ e then .disabled else d.epState e)
          ∧ (∀ e, d'.ring e = if 2 ≤ e then { d.ring e with init := false } else d.ring e))

/-! ### Transfers -/

/-- R384, R389, R391: on a transfer ring Isoch, Link and Event Data TRBs, command and event TRBs and unrecognised types
are consumed with TRB Error and residual 0; no device is called and nothing else changes. -/
def Obligations.TransferRingTrbErrors : Prop :=
  ∀ (s : State) (sid e : Nat) (d : DeviceSlot), s.unit = .transfer sid e → e < 32 → s.slotAt sid = some d →
    (∀ mk ∈ notTransfers, ∀ t : Trb,
        exec (mk t) s = .next (afterTransfer (s.setSlot sid (some (pastTransfer d e))) d sid e 5 0))
      ∧ (∀ b : Raw,
        exec (.malformedTrb b) s = .next (afterTransfer (s.setSlot sid (some (pastTransfer d e))) d sid e 5 0))

/-- R385, R392: a Normal TRB passes its data, immediate or read from guest memory, to the device once. MemFault on the
read is Data Buffer Error with no call; Err is USB Transaction Error and the endpoint in Error; an empty answer is
Success; an answer is cut to the TRB's length and, unless the data is immediate, written to the buffer, MemFault being
Data Buffer Error; what is left of the length is the residual, Short Packet unless it is 0. -/
def Obligations.NormalTrbRule : Prop :=
  ∀ (s : State) (t : Trb) (sid e : Nat) (d : DeviceSlot),
    s.unit = .transfer sid e → e < 32 → s.slotAt sid = some d →
    let len := t.status.toNat % 2 ^ 17
    let d1 := pastTransfer d e
    let s1 := s.setSlot sid (some d1)
    let answered : List Byte → State → Prop := fun data s2 =>
      ∀ ans s3, s2.callDevice (.handleTransfer d.dev e data) = (ans, s3) →
        (ans = .err →
            exec (.normal t) s = .next (afterTransfer (s3.setSlot sid (some { d1 with
              eps := d1.eps.modify e (fun c => { c with state := .error }) })) d sid e 4 len))
          ∧ (ans = .ok [] → exec (.normal t) s = .next (afterTransfer s3 d sid e 1 0))
          ∧ (∀ resp, resp ≠ [] → ans = .ok resp → t.control.getLsbD 6 = true →
            exec (.normal t) s
              = .next (afterTransfer s3 d sid e (if resp.length < len then 13 else 1) (len - resp.length)))
          ∧ (∀ resp s4, resp ≠ [] → ans = .ok resp → t.control.getLsbD 6 = false →
            (s3.memWrite t.parameter (resp.take len) = (true, s4) →
              exec (.normal t) s
                = .next (afterTransfer s4 d sid e (if resp.length < len then 13 else 1) (len - resp.length)))
            ∧ (s3.memWrite t.parameter (resp.take len) = (false, s4) →
              exec (.normal t) s = .next (afterTransfer s4 d sid e 2 len)))
    (t.control.getLsbD 6 = true →
        answered ((List.range (min len 8)).map (fun k => BitVec.ofNat 8 (t.parameter.toNat / 256 ^ k))) s1)
      ∧ (t.control.getLsbD 6 = false → ∀ read s2, s1.memRead t.parameter len = (read, s2) →
        (read = none → exec (.normal t) s = .next (afterTransfer s2 d sid e 2 len))
          ∧ (∀ data, read = some data → answered data s2))

/-- R386, R388, R390, R392: a Setup Stage TRB passes the 8 bytes of its parameter to `handle_control` once; the answer
becomes the pending control response with Success, or, for Err, the endpoint enters Error with USB Transaction Error and
residual 8. A Status Stage TRB empties the pending response. A No Op TRB changes nothing. Both succeed, with no call. -/
def Obligations.SetupStatusAndNoOpRules : Prop :=
  ∀ (s : State) (t : Trb) (sid e : Nat) (d : DeviceSlot),
    s.unit = .transfer sid e → e < 32 → s.slotAt sid = some d →
    let d1 := pastTransfer d e
    let s1 := s.setSlot sid (some d1)
    (∀ ans s2,
        s1.callDevice (.handleControl d.dev
          ((List.range 8).map (fun k => BitVec.ofNat 8 (t.parameter.toNat / 256 ^ k)))) = (ans, s2) →
        (∀ resp, ans = .ok resp → exec (.setupStage t) s
            = .next (afterTransfer (s2.setSlot sid (some { d1 with ctlResp := resp })) d sid e 1 0))
          ∧ (ans = .err → exec (.setupStage t) s
            = .next (afterTransfer (s2.setSlot sid (some { d1 with
                eps := d1.eps.modify e (fun c => { c with state := .error }) })) d sid e 4 8)))
      ∧ exec (.statusStage t) s
        = .next (afterTransfer (s.setSlot sid (some { d1 with ctlResp := [] })) d sid e 1 0)
      ∧ exec (.noop t) s = .next (afterTransfer s1 d sid e 1 0)

/-- R387: a Data Stage TRB with DIR = 0 empties the pending control response and succeeds; with DIR = 1 it writes the
response, cut to its length, to the buffer and empties it, the residual being what is left of the length, or, on
MemFault, completes with Data Buffer Error and keeps the response. No device is called. -/
def Obligations.DataStageRule : Prop :=
  ∀ (s : State) (t : Trb) (sid e : Nat) (d : DeviceSlot),
    s.unit = .transfer sid e → e < 32 → s.slotAt sid = some d →
    let len := t.status.toNat % 2 ^ 17
    let d1 := pastTransfer d e
    let s1 := s.setSlot sid (some d1)
    (t.control.getLsbD 16 = false →
        exec (.dataStage t) s = .next (afterTransfer (s.setSlot sid (some { d1 with ctlResp := [] })) d sid e 1 0))
      ∧ (t.control.getLsbD 16 = true → ∀ s2,
        (s1.memWrite t.parameter (d.ctlResp.take len) = (true, s2) →
            exec (.dataStage t) s
              = .next (afterTransfer (s2.setSlot sid (some { d1 with ctlResp := [] })) d sid e
                  (if d.ctlResp.length < len then 13 else 1) (len - d.ctlResp.length)))
          ∧ (s1.memWrite t.parameter (d.ctlResp.take len) = (false, s2) →
            exec (.dataStage t) s = .next (afterTransfer s2 d sid e 2 len)))

/-! ### The host interface -/

/-- R203, R232: CMD queues a TRB on the command ring and XFER on a transfer ring. An uninitialised ring (and, for XFER,
an absent slot or an endpoint outside 1 to 31) answers Rejected, a full ring Full, and nothing changes. Else the TRB is
stored at the producer's slot with the producer's cycle bit, the producer moves on, flipping its cycle at the end of the
ring, and the slot's address is the answer. -/
def Obligations.QueueOperations : Prop :=
  ∀ (s : State) (b : Raw),
    let full : Ring → Prop := fun r => r.enq = r.deq ∧ (r.slots.getD r.deq 0).getLsbD 96 = r.ccs
    let stored : Ring → Ring := fun r =>
      { r with
        slots := r.slots.set r.enq (encodeTrb { rawWords b with
          control := w32 ((rawWords b).control.toNat / 2 * 2 + digit r.pcs 0) })
        enq := if r.enq + 1 = r.size then 0 else r.enq + 1
        pcs := if r.enq + 1 = r.size then !r.pcs else r.pcs }
    (s.cmdRing.init = false → exec (.cmd b) s = .next { s with result := .rejected })
      ∧ (s.cmdRing.init = true → full s.cmdRing → exec (.cmd b) s = .next { s with result := .full })
      ∧ (s.cmdRing.init = true → ¬ full s.cmdRing →
        exec (.cmd b) s = .next { s with
          cmdRing := stored s.cmdRing
          result := .queued (s.cmdRing.base + BitVec.ofNat 64 (16 * s.cmdRing.enq)) })
      ∧ (∀ sid e, (s.slotAt sid = none ∨ ¬ (1 ≤ e ∧ e < s.cfg.numEp)) →
        exec (.xfer sid e b) s = .next { s with result := .rejected })
      ∧ (∀ sid e d, s.slotAt sid = some d → 1 ≤ e → e < s.cfg.numEp → e < d.rings.length →
        ((d.ring e).init = false → exec (.xfer sid e b) s = .next { s with result := .rejected })
          ∧ ((d.ring e).init = true → full (d.ring e) → exec (.xfer sid e b) s = .next { s with result := .full })
          ∧ ((d.ring e).init = true → ¬ full (d.ring e) →
            exec (.xfer sid e b) s = .next { s with
              slotTab := s.slotTab.set sid (some { d with rings := d.rings.set e (stored (d.ring e)) })
              result := .queued ((d.ring e).base + BitVec.ofNat 64 (16 * (d.ring e).enq)) }))

/-- R201, R230: XINIT makes the transfer ring of an existing endpoint a new empty ring of zeroed slots, both cycle states
1 and both cursors 0; a zero size, a null base or a base that is not a multiple of 16 is InitRejected, and an absent
slot or an endpoint outside 1 to 31 a no-op; then nothing changes. -/
def Obligations.TransferRingInit : Prop :=
  ∀ (s : State) (sid e : Nat) (base : Addr) (size : Word),
    ((s.slotAt sid = none ∨ ¬ (1 ≤ e ∧ e < s.cfg.numEp)) →
        exec (.xinit sid e base size) s = .next { s with result := .none })
      ∧ (∀ d, s.slotAt sid = some d → 1 ≤ e → e < s.cfg.numEp →
        (size = 0 ∨ base = 0 ∨ base.toNat % 16 ≠ 0 →
            exec (.xinit sid e base size) s = .next { s with result := .initRejected })
          ∧ (size ≠ 0 → base ≠ 0 → base.toNat % 16 = 0 →
            exec (.xinit sid e base size) s = .next { s with
              slotTab := s.slotTab.set sid (some { d with
                rings := d.rings.set e
                  ⟨true, base, size.toNat, List.replicate size.toNat 0, 0, true, 0, true⟩ })
              result := .initialised }))

/-- R224 (an interrupter that does not exist answers None and nothing changes: log 21): the guest reads the slot at its cursor where the
cycle bit there is the one it expects, and moves its cursor on, to the next segment at a segment's end, wrapping and
flipping the expected cycle; else it reads nothing. Only the guest's cursor changes. -/
def Obligations.GuestConsumesEvents : Prop :=
  ∀ (s : State) (n : Nat),
    let e := s.evRing n
    let b : Raw := (e.seg e.gseg).slots.getD e.gidx 0
    (s.cfg.maxIntrs ≤ n → exec (.evt n) s = .next { s with result := .noEvent })
      ∧ (n < s.cfg.maxIntrs →
        (e.segs = [] ∨ b.getLsbD 96 ≠ e.gccs → exec (.evt n) s = .next { s with result := .noEvent })
          ∧ (e.segs ≠ [] → b.getLsbD 96 = e.gccs →
            exec (.evt n) s = .next { s with
              evRings := s.evRings.set n (if e.gidx + 1 = (e.seg e.gseg).size
                then { e with gidx := 0, gseg := (e.gseg + 1) % e.segs.length, gccs := !e.gccs }
                else { e with gidx := e.gidx + 1 })
              result := .event b }))

/-- R400, R402: ATTACH to a port that does not exist or is connected is PortUnavailable, and with no free slot index
NoFreeSlots, and nothing changes. Else it asks the device's speed, puts a new Device Slot (Disabled, no address,
endpoints Disabled, rings uninitialised) in the lowest free entry, connects the port, and posts a port change. -/
def Obligations.AttachRule : Prop :=
  ∀ (s : State) (p dev : Nat),
    ((s.cfg.maxPorts ≤ p ∨ (s.port p).ccs = true) → exec (.attach p dev) s = .next { s with result := .portUnavailable })
      ∧ (p < s.cfg.maxPorts → (s.port p).ccs = false →
        ((∀ j, 1 ≤ j → j ≤ s.cfg.maxSlots → s.slotTab.getD j none ≠ none) →
            exec (.attach p dev) s = .next { s with result := .noFreeSlots })
          ∧ (∀ sid sp s1, 1 ≤ sid → sid ≤ s.cfg.maxSlots → s.slotTab.getD sid none = none →
            (∀ j, 1 ≤ j → j < sid → s.slotTab.getD j none ≠ none) → s.callSpeed dev = (sp, s1) →
            exec (.attach p dev) s
              = .next { portChanged { s1 with
                  slotTab := s.slotTab.set sid (some ⟨p, dev, s.serial + 1, ⟨0, 0, .disabled, sp⟩,
                    List.replicate s.cfg.numEp ⟨.disabled, 0⟩,
                    List.replicate s.cfg.numEp ⟨false, 0, 0, [], 0, true, 0, true⟩, [],
                    List.replicate s.cfg.numEp false⟩)
                  serial := s.serial + 1
                  ports := s.ports.modify p (fun q => { q with
                    ccs := true, csc := true, slot := some sid
                    speed := match sp with | .full => 1 | .high => 3 | .super => 4
                    ped := match sp with | .super => true | .full | .high => false
                    pls := match sp with | .super => 0 | .full | .high => 7 }) } p with
                  result := .slot sid }))

/-- R402, R403: DETACH of an absent slot is a no-op. Else the slot's address is free again, its entry is None, its port
is disconnected, and a port change is posted. -/
def Obligations.DetachRule : Prop :=
  ∀ (s : State) (sid : Nat),
    (s.slotAt sid = none → exec (.detach sid) s = .next { s with result := .none })
      ∧ (∀ d, s.slotAt sid = some d →
        exec (.detach sid) s
          = .next { portChanged { s with
              addrUsed := if 1 ≤ d.ctx.deviceAddress ∧ d.ctx.deviceAddress ≤ s.cfg.numAddr
                then s.addrUsed.set d.ctx.deviceAddress false else s.addrUsed
              slotTab := s.slotTab.set sid none
              ports := s.ports.modify d.port (fun q => { q with
                ccs := false, ped := false, speed := 0, pls := 5, csc := true, slot := none }) } d.port with
              result := .none })

/-! ### The machine -/

/-- R14, R96, R370 (the answers' form: log 8 to 12): what a memory access and a device call do, whatever the outside
agents answer. A read that succeeds returns the n bytes of guest RAM, a write that succeeds stores its bytes and no
other, one that fails stores nothing; no access changes anything but memory and the coming answers; a device call is
recorded once. Each access uses up one verdict of the memory collaborator: where it says MemFault the access fails; where
it does not, a read of listed bytes answers them, a write to listed bytes succeeds, and an access with an unlisted byte
fails. Each call of `speed()`, `handle_control` or `handle_transfer` answers, and uses up, the oldest answer listed for
it, or a free value. -/
def Obligations.OutsideAgents : Prop :=
  ∀ s : State,
    (∀ a n r s1, s.memRead a n = (r, s1) → (∃ d, s1 = { s with draws := d })
        ∧ (∀ bs, r = some bs → bs.length = n ∧ ∀ k < n, memGet s.mem (a + BitVec.ofNat 64 k).toNat = bs[k]?)
        ∧ ((∃ k < n, memGet s.mem (a + BitVec.ofNat 64 k).toNat = none) → r = none))
      ∧ (∀ a bs ok s1, s.memWrite a bs = (ok, s1) → (∃ d m, s1 = { s with draws := d, mem := m })
        ∧ (ok = false → s1.mem = s.mem)
        ∧ (ok = true → bs.length ≤ 2 ^ 64 → ∀ k < bs.length, memGet s1.mem (a + BitVec.ofNat 64 k).toNat = bs[k]?)
        ∧ (∀ x, (∀ k < bs.length, x ≠ (a + BitVec.ofNat 64 k).toNat) → memGet s1.mem x = memGet s.mem x)
        ∧ ((∃ k < bs.length, memGet s.mem (a + BitVec.ofNat 64 k).toNat = none) → ok = false))
      ∧ (∀ c ans s1, s.callDevice c = (ans, s1) → ∃ d, s1 = { s with calls := s.calls ++ [c], draws := d })
      ∧ (∀ dev sp s1, s.callSpeed dev = (sp, s1) → ∃ d, s1 = { s with calls := s.calls ++ [.speed dev], draws := d })
      ∧ (∀ s', nextVerdict s true s' →
        (∀ a n, s.memRead a n = (none, s')) ∧ (∀ a bs, s.memWrite a bs = (false, s')))
      ∧ (∀ s', nextVerdict s false s' →
        (∀ a bs, (∀ k < bs.length, memGet s.mem (a + BitVec.ofNat 64 k).toNat = bs[k]?) →
            s.memRead a bs.length = (some bs, s'))
          ∧ (∀ a n, (∃ k < n, memGet s.mem (a + BitVec.ofNat 64 k).toNat = none) → s.memRead a n = (none, s'))
          ∧ (∀ a bs, (∀ k < bs.length, memGet s.mem (a + BitVec.ofNat 64 k).toNat ≠ none) →
            ∃ m, s.memWrite a bs = (true, { s' with mem := m }))
          ∧ (∀ a bs, (∃ k < bs.length, memGet s.mem (a + BitVec.ofNat 64 k).toNat = none) →
            s.memWrite a bs = (false, s')))
      ∧ (∀ c,
        (∀ ans r, s.draws.device = ans :: r →
            s.callDevice c = (ans, { s with calls := s.calls ++ [c], draws := { s.draws with device := r } }))
          ∧ (s.draws.device = [] →
            s.callDevice c = (Config.freeDevAnswer s.draws.count,
              { s with calls := s.calls ++ [c], draws := { s.draws with count := s.draws.count + 1 } })))
      ∧ (∀ dev,
        (∀ sp r, s.draws.speed = sp :: r →
            s.callSpeed dev = (sp, { s with calls := s.calls ++ [.speed dev], draws := { s.draws with speed := r } }))
          ∧ (s.draws.speed = [] →
            s.callSpeed dev = (Config.freeSpeed s.draws.count,
              { s with calls := s.calls ++ [.speed dev], draws := { s.draws with count := s.draws.count + 1 } })))

/-- A step runs the instruction the decoder reads: an MMIO access or a host operation at the head of the inbox (log 2),
the TRB at the cursor of the drain that holds the lock or of the split drain whose turn it is (R320, R374, R380; log
3, 4), or the second half of an 8-byte access whose turn it is (R82; log 3, 16). What surrounds it is `settle`. -/
def Obligations.StepRunsTheDecodedInstruction : Prop :=
  ∀ (s : State) (rest : List Input),
    (∀ a, s.locked = none → s.inbox = .access a :: rest →
        step s = mapNext (settle .access) (exec (decode s.cfg (.access a))
          { s with inbox := rest, cont := (highHalfOf a).map (fun b => ⟨b, 0⟩) }))
      ∧ (∀ op, s.locked = none → s.inbox = .host op :: rest →
        step s = mapNext (settle .host) (exec (decode s.cfg (.host op)) { s with inbox := rest }))
      ∧ (∀ p h, s.locked = some ⟨.cmdDrain p, h⟩ → s.cmdRing.empty = false →
        step s = mapNext (settle (.locked ⟨.cmdDrain p, h⟩))
          (exec (decode s.cfg (.trb (s.cmdRing.at s.cmdRing.deq))) { s with unit := .command }))
      ∧ (∀ sid serial e p h d, s.slotAt sid = some d → d.serial = serial → d.epState e = .running →
        (d.ring e).empty = false →
        (s.locked = some ⟨.xferDrain sid serial e p, h⟩ →
            step s = mapNext (settle (.locked ⟨.xferDrain sid serial e p, h⟩))
              (exec (decode s.cfg (.trb ((d.ring e).at (d.ring e).deq))) { s with unit := .transfer sid e }))
          ∧ (∀ k, s.locked = none → s.inbox = .turn k :: rest → s.tasks[k]? = some ⟨.xferDrain sid serial e p, h⟩ →
            step s = mapNext (settle (.task k ⟨.xferDrain sid serial e p, h⟩))
              (exec (decode s.cfg (.trb ((d.ring e).at (d.ring e).deq)))
                { s with inbox := rest, unit := .transfer sid e }))
          ∧ (s.locked = none → s.inbox = [] → s.tasks[0]? = some ⟨.xferDrain sid serial e p, h⟩ →
            step s = mapNext (settle (.task 0 ⟨.xferDrain sid serial e p, h⟩))
              (exec (decode s.cfg (.trb ((d.ring e).at (d.ring e).deq))) { s with unit := .transfer sid e })))
      ∧ (∀ k h, hasTurn s k rest → s.tasks[k]? = some ⟨.idle, some h⟩ →
        step s = mapNext (settle (.high h))
          (exec (decode s.cfg (.access h.access)) { s with inbox := rest, tasks := s.tasks.eraseIdx k }))

/-- R420: nothing stops the controller; from every state a step answers a next state. -/
def Obligations.EveryStepAnswersANextState : Prop := ∀ s : State, ∃ t, step s = .next t

/-- R90, R320, R372, as the model reads them (one step for each TRB, the lock held in between: log 4; a drain whose events
were all dropped raises nothing: log 7, DEDUCED; the second half of an 8-byte access: log 16): a command drain that
finds its ring empty ends: the lock is free, interrupter 0 is raised once if the drain has posted an event and not
otherwise, the second half of the access, if it has one, is left to do, and nothing else changes. While a drain holds
the lock no input is taken and no other access moves. -/
def Obligations.CommandDrainEnds : Prop :=
  ∀ (s : State) (p : Bool) (h : Option HighHalf), s.locked = some ⟨.cmdDrain p, h⟩ →
    (s.cmdRing.empty = true →
        step s = .next { raisedIf p s with locked := none, result := .none, tasks := s.tasks ++ secondHalf h })
      ∧ (s.cmdRing.empty = false → ∀ t, step s = .next t →
        t.inbox = s.inbox ∧ t.tasks = s.tasks ∧ t.cmdRing = s.cmdRing.advance
          ∧ t.locked = some ⟨.cmdDrain (p || decide (t.result = .posted)), h⟩)

/-- R334, R374, R377, R380: how a transfer drain moves and ends. A split drain does either at its turn (by the outside, or
as the oldest with no input waiting: log 3), an atomic drain (R374), which holds the lock, at once (log 4). While its
Device Slot is there (the slot's identity: log 6), its endpoint Running and its ring not empty, it moves: one TRB is
consumed, the drain stays where it is with its second half (log 16), `posted` is set if the TRB's event was posted (a
dropped one does not set it: log 7, DEDUCED), and no interrupt is raised, no other access moves, no input is taken.
Otherwise it ends, the failed check of R380 and its final being one step (log 5, DEDUCED): the draining flag of a split
drain's Device Slot, if that is still there, is clear, the lock of an atomic drain is free, interrupter 0 is raised once
if an event was posted and not otherwise, the second half of the access, if it has one, is left to do, and nothing else
changes. -/
def Obligations.SplitDrainEnds : Prop :=
  ∀ (s : State) (sid serial e : Nat) (p : Bool) (h : Option HighHalf),
    (∀ d, s.slotAt sid = some d → d.serial = serial → d.epState e = .running → (d.ring e).empty = false →
        let moved : State → Task → Prop := fun t after =>
          after = ⟨.xferDrain sid serial e (p || decide (t.result = .posted)), h⟩
            ∧ t.intrs = s.intrs ∧ t.usbsts = s.usbsts
            ∧ ∃ d', t.slotAt sid = some d' ∧ d'.serial = serial ∧ d'.ring e = (d.ring e).advance
              ∧ d'.draining = d.draining
        (∀ k rest, hasTurn s k rest → s.tasks[k]? = some ⟨.xferDrain sid serial e p, h⟩ →
            ∃ t after, step s = .next t ∧ moved t after ∧ t.tasks = s.tasks.set k after ∧ t.inbox = rest
              ∧ t.locked = none)
          ∧ (s.locked = some ⟨.xferDrain sid serial e p, h⟩ →
            ∃ t after, step s = .next t ∧ moved t after ∧ t.locked = some after ∧ t.tasks = s.tasks
              ∧ t.inbox = s.inbox))
      ∧ ((∀ d, s.slotAt sid = some d → d.serial = serial → d.epState e ≠ .running ∨ (d.ring e).empty = true) →
        (∀ k rest, hasTurn s k rest → s.tasks[k]? = some ⟨.xferDrain sid serial e p, h⟩ →
            let ended : State → State := fun t => { raisedIf p t with
              inbox := rest, result := .none, tasks := s.tasks.eraseIdx k ++ secondHalf h }
            (∀ d, s.slotAt sid = some d → d.serial = serial →
                step s = .next (ended { s with
                  slotTab := s.slotTab.set sid (some { d with draining := d.draining.set e false }) }))
              ∧ ((∀ d, s.slotAt sid = some d → d.serial ≠ serial) → step s = .next (ended s)))
          ∧ (s.locked = some ⟨.xferDrain sid serial e p, h⟩ →
            step s = .next { raisedIf p s with locked := none, result := .none, tasks := s.tasks ++ secondHalf h }))

/-- I19, R320: a command drain ends. From a sound state in which one holds the lock, at most size + 1 steps of the model
(one for each TRB and one for the end: log 4) later the lock is free and the ring empty, every step of the drain having
answered a next state. -/
def Obligations.CommandDrainTerminates : Prop :=
  ∀ (s : State) (p : Bool) (h : Option HighHalf), s.cmdRing.ok → s.locked = some ⟨.cmdDrain p, h⟩ →
    ∃ k ≤ s.cmdRing.size + 1, ∃ t, Host.Core.run core k s = .next t ∧ t.locked = none ∧ t.cmdRing.empty = true

/-- R92, R215, R374: every instruction that executes a TRB posts exactly one event on interrupter 0, whatever its own
effect: a Command Completion Event with the TRB's address, and the command ring's cursor past it; or a Transfer Event
with the TRB's address, slot and endpoint. With no segment to post in the event is dropped. -/
def Obligations.EveryConsumedTrbPostsOneEvent : Prop :=
  ∀ (i : Instr) (s t : State), isTrb i = true → exec i s = .next t →
    (s.unit = .command → t.cmdRing = s.cmdRing.advance
        ∧ ∃ s1 slot code extra, s1.evRings = s.evRings ∧ s1.cfg = s.cfg ∧ t = afterCommand s s1 slot code extra)
      ∧ (∀ sid e, e < 32 → s.unit = .transfer sid e →
        ∃ d s1 code residual, s.slotAt sid = some d ∧ s1.evRings = s.evRings ∧ s1.cfg = s.cfg
          ∧ t = afterTransfer s1 d sid e code residual)

/-- Every byte of guest memory is as before after every instruction, except the bytes a Normal or Data Stage TRB stores
at its buffer (R96, R97, R385, R387). -/
def Obligations.InstructionsStoreOnlyToTheirBuffer : Prop :=
  ∀ (i : Instr) (s t : State), exec i s = .next t →
    ∀ x : Nat,
      (∀ a n, storedRange i s = some (a, n) → ∀ k < n, x ≠ (a + BitVec.ofNat 64 k).toNat) →
      memGet t.mem x = memGet s.mem x

/-- What each instruction can change. Only a USBCMD write changes the run state or USBCMD; nothing the configuration,
`unit` or the inbox. The command ring's state machine (R206): only its five transitions. Short of a controller reset
(ControllerResetLeaves): only its own register's write changes DNCTRL, CRCR, DCBAAP, CONFIG or a doorbell target; only
Disable Slot, Address Device, Reset Device and DETACH the address bitmap; only USBSTS its HSE and SRE, only USBSTS and a
port change (PORTSC, ATTACH, DETACH) its EINT and PCD; only IMAN[m] IE of interrupter m, only IMAN[m] its IP and only
ERDP_LO[m] its EHB (interrupter 0: or a port change), only its own registers its register set (likewise); only PORTSC[p]
PEC, WRC or PRC of port p, only it and ATTACH or DETACH at p its CSC, only these and PORTPMSC[p] its register set. The
cycle bits (R53) are those of the rings: only CMD, a CRCR write and a TRB change the command ring; only EVT, ERSTBA and
ERDP of interrupter m its event ring (interrupter 0: or a posted event: a TRB, a CRCR write, a port change); only XFER,
XINIT and a TRB the transfer rings of a slot. Only a Setup, Data or Status Stage on its own ring, Disable Slot and Reset
Device change a slot's ctl_resp (R46); only a write of its doorbell, with a split drain, a draining flag, which it sets
(R52); only doorbells the accesses in progress; only ATTACH fills an entry of the slot table, only DETACH of it empties
one. The end of a drain, which is no instruction, raises interrupter 0 and clears a draining flag: CommandDrainEnds,
SplitDrainEnds. -/
def Obligations.RegistersHaveTheirOwnWriters : Prop :=
  ∀ (i : Instr) (s t : State), exec i s = .next t →
    t.cfg = s.cfg ∧ t.unit = s.unit ∧ t.inbox = s.inbox
      ∧ ((∀ a, i ≠ .usbcmd a) → t.ctrl = s.ctrl ∧ t.usbcmd = s.usbcmd)
      ∧ (t.cmdState = s.cmdState
        ∨ ((∃ v, (i = .crcrLo (.write v) ∧ v.getLsbD 1 = false ∧ v.getLsbD 2 = false) ∨ i = .crcrHi (.write v))
          ∧ t.cmdState = .running ∧ t.cmdRing.init = true ∧ t.cmdRing.deq = 0 ∧ t.cmdRing.enq = 0)
        ∨ ((∃ v, i = .crcrLo (.write v) ∧ v.getLsbD 1 = true ∧ v.getLsbD 2 = false) ∧ s.cmdState = .running
          ∧ t.cmdState = .stopped)
        ∨ ((∃ v, i = .crcrLo (.write v) ∧ v.getLsbD 2 = true) ∧ s.cmdState = .running ∧ t.cmdState = .aborted)
        ∨ ((∃ v, i = .db 0 (.write v)) ∧ (s.cmdState = .stopped ∨ s.cmdState = .aborted) ∧ s.ctrl = .running
          ∧ s.cmdRing.init = true ∧ t.cmdState = .running)
        ∨ (isReset i = true ∧ t.cmdState = .stopped ∧ t.cmdRing.init = false))
      ∧ (isReset i = false →
        ((∀ a, i ≠ .dnctrl a) → t.dnctrl = s.dnctrl)
          ∧ ((∀ a, i ≠ .crcrLo a ∧ i ≠ .crcrHi a) → t.crcrPtr = s.crcrPtr ∧ t.crcrRcs = s.crcrRcs)
          ∧ ((∀ a, i ≠ .dcbaapLo a ∧ i ≠ .dcbaapHi a) → t.dcbaap = s.dcbaap)
          ∧ ((∀ a, i ≠ .config a) → t.maxSlotsEn = s.maxSlotsEn)
          ∧ ((∀ k a, i ≠ .db k a) → t.db = s.db)
          ∧ ((∀ x, i ≠ .disableSlot x ∧ i ≠ .addressDevice x ∧ i ≠ .resetDevice x) → (∀ k, i ≠ .detach k) →
            t.addrUsed = s.addrUsed)
          ∧ ((∀ a, i ≠ .usbsts a) →
            t.usbsts.hse = s.usbsts.hse ∧ t.usbsts.sre = s.usbsts.sre
              ∧ (changesPort i = false → t.usbsts = s.usbsts))
          ∧ (∀ m,
            ((∀ a, i ≠ .iman m a) → (t.intr m).ie = (s.intr m).ie)
              ∧ ((m = 0 → changesPort i = false) →
                ((∀ a, i ≠ .iman m a) → (t.intr m).ip = (s.intr m).ip)
                  ∧ ((∀ a, i ≠ .erdpLo m a) → (t.intr m).ehb = (s.intr m).ehb)
                  ∧ (intrOf i ≠ some m → t.intr m = s.intr m)))
          ∧ (∀ p, (∀ a, i ≠ .portsc p a) →
            ((t.port p).pec = (s.port p).pec ∧ (t.port p).wrc = (s.port p).wrc ∧ (t.port p).prc = (s.port p).prc)
              ∧ ((∀ dev, i ≠ .attach p dev) → (∀ k d, i = .detach k → s.slotAt k = some d → d.port ≠ p) →
                (t.port p).csc = (s.port p).csc ∧ ((∀ a, i ≠ .portpmsc p a) → t.port p = s.port p)))
          ∧ (isTrb i = false → (∀ a, i ≠ .crcrLo a ∧ i ≠ .crcrHi a) → (∀ b, i ≠ .cmd b) → t.cmdRing = s.cmdRing)
          ∧ (∀ m, i ≠ .evt m →
            (∀ a, i ≠ .erstbaLo m a ∧ i ≠ .erstbaHi m a ∧ i ≠ .erdpLo m a ∧ i ≠ .erdpHi m a) →
            (m = 0 → isTrb i = false ∧ changesPort i = false ∧ ∀ a, i ≠ .crcrLo a) → t.evRing m = s.evRing m)
          ∧ (∀ sid d d', s.entry sid = some d → t.entry sid = some d' → isTrb i = false →
            (∀ e b, i ≠ .xfer sid e b) → (∀ e base size, i ≠ .xinit sid e base size) → d'.rings = d.rings)
          ∧ (∀ sid d d', s.entry sid = some d → t.entry sid = some d' →
            ((∀ x, i ≠ .disableSlot x ∧ i ≠ .resetDevice x) →
                ((∀ x, i ≠ .setupStage x ∧ i ≠ .dataStage x ∧ i ≠ .statusStage x) ∨ ∀ e, s.unit ≠ .transfer sid e) →
                d'.ctlResp = d.ctlResp)
              ∧ (∀ e, d'.draining.getD e false = d.draining.getD e false
                ∨ ((∃ v, i = .db sid (.write v) ∧ v.toNat % 256 = e) ∧ s.cfg.atomicTransferDrain = false
                  ∧ d'.draining.getD e false = true)))
          ∧ ((∀ k a, i ≠ .db k a) → t.locked = s.locked ∧ t.tasks = s.tasks ∧ t.cont = s.cont)
          ∧ (∀ sid, (i ≠ .detach sid → s.entry sid ≠ none → t.entry sid ≠ none)
            ∧ ((∀ p dev, i ≠ .attach p dev) → s.entry sid = none → t.entry sid = none)))

/-- R323, R347, R463: the slot state machine. A Device Slot that stays in its entry keeps its state, or moves by exactly
one of: Enable Slot (Disabled to Default), Address Device (Disabled or Default to Addressed), Configure Endpoint
(Addressed to Configured), Reset Device (not Disabled to Default), Disable Slot and a controller reset (to Disabled).
R46, R47, R48: its port, device, route string, speed and endpoint types (and the model's own serial number, log 6)
never change. -/
def Obligations.SlotStateMachine : Prop :=
  ∀ (i : Instr) (s t : State) (sid : Nat) (d d' : DeviceSlot),
    exec i s = .next t → s.entry sid = some d → t.entry sid = some d' →
    (d'.ctx.state = d.ctx.state
        ∨ ((∃ x, i = .enableSlot x) ∧ d.ctx.state = .disabled ∧ d'.ctx.state = .default)
        ∨ ((∃ x, i = .addressDevice x) ∧ (d.ctx.state = .disabled ∨ d.ctx.state = .default)
          ∧ d'.ctx.state = .addressed)
        ∨ ((∃ x, i = .configureEndpoint x) ∧ d.ctx.state = .addressed ∧ d'.ctx.state = .configured)
        ∨ ((∃ x, i = .resetDevice x) ∧ d.ctx.state ≠ .disabled ∧ d'.ctx.state = .default)
        ∨ (((∃ x, i = .disableSlot x) ∨ isReset i = true) ∧ d'.ctx.state = .disabled))
      ∧ d'.port = d.port ∧ d'.dev = d.dev ∧ d'.serial = d.serial ∧ d'.ctx.routeString = d.ctx.routeString
      ∧ d'.ctx.speed = d.ctx.speed ∧ d'.eps.map EpContext.type = d.eps.map EpContext.type

/-- R332, R347, R392, R463: the endpoint state machine. An endpoint keeps its state, or moves by exactly one of: Address
Device (endpoint 1 to Running), Configure Endpoint (2 to 31, Disabled to Running), Reset Endpoint (Running to Halted,
Halted or Error to Running), Stop Endpoint (Running to Stopped and back), a device error (to Error), Disable Slot, Reset
Device (2 to 31) and a controller reset (to Disabled). -/
def Obligations.EndpointStateMachine : Prop :=
  ∀ (i : Instr) (s t : State) (sid e : Nat) (d d' : DeviceSlot),
    exec i s = .next t → s.entry sid = some d → t.entry sid = some d' →
    d'.epState e = d.epState e
      ∨ ((∃ x, i = .addressDevice x) ∧ e = 1 ∧ d'.epState e = .running)
      ∨ ((∃ x, i = .configureEndpoint x) ∧ 2 ≤ e ∧ d.epState e = .disabled ∧ d'.epState e = .running)
      ∨ ((∃ x, i = .resetEndpoint x) ∧ d.epState e = .running ∧ d'.epState e = .halted)
      ∨ ((∃ x, i = .resetEndpoint x) ∧ (d.epState e = .halted ∨ d.epState e = .error) ∧ d'.epState e = .running)
      ∨ ((∃ x, i = .stopEndpoint x) ∧ d.epState e = .running ∧ d'.epState e = .stopped)
      ∨ ((∃ x, i = .stopEndpoint x) ∧ d.epState e = .stopped ∧ d'.epState e = .running)
      ∨ ((∃ x, i = .normal x ∨ i = .setupStage x) ∧ s.unit = .transfer sid e ∧ d'.epState e = .error)
      ∨ (((∃ x, i = .disableSlot x) ∧ 1 ≤ e ∨ (∃ x, i = .resetDevice x) ∧ 2 ≤ e ∨ isReset i = true)
        ∧ d'.epState e = .disabled)

/-- R370: an instruction calls a device at most once, and only ATTACH asks a speed, only Reset Device resets, only Setup
Stage calls `handle_control`, only Normal calls `handle_transfer`. -/
def Obligations.DeviceCallsHaveTheirCallers : Prop :=
  ∀ (i : Instr) (s t : State), exec i s = .next t →
    t.calls = s.calls
      ∨ ∃ c, t.calls = s.calls ++ [c]
        ∧ ((∃ p dev, i = .attach p dev ∧ c = .speed dev)
          ∨ (∃ x dev, i = .resetDevice x ∧ c = .reset dev)
          ∨ (∃ x dev req, i = .setupStage x ∧ c = .handleControl dev req)
          ∨ (∃ x dev ep data, i = .normal x ∧ c = .handleTransfer dev ep data))

/-- R50, R431, R464 (a raise sets all three bits whatever they were: log 27, DEDUCED): raising an interrupter sets IP and
EHB of that interrupter and EINT, and leaves every other field of the state as it was, and a second raise changes
nothing more; the level is IP and IE and INTE; at construction and after a controller reset every level is 0. -/
def Obligations.InterruptLevels : Prop :=
  (∀ (s : State) (n : Nat),
      s.raiseInterrupt n = { s with
        intrs := s.intrs.modify n (fun i => { i with ip := true, ehb := true })
        usbsts := { s.usbsts with eint := true } })
    ∧ (∀ (s : State) (n : Nat), n < s.intrs.length →
      (s.raiseInterrupt n).intr n = { s.intr n with ip := true, ehb := true }
        ∧ (s.raiseInterrupt n).usbsts = { s.usbsts with eint := true }
        ∧ (∀ m, m ≠ n → (s.raiseInterrupt n).intr m = s.intr m)
        ∧ (s.raiseInterrupt n).raiseInterrupt n = s.raiseInterrupt n)
    ∧ (∀ (s : State) (n : Nat), s.irq n = true ↔ (s.intr n).ip = true ∧ (s.intr n).ie = true ∧ s.usbcmd.inte = true)
    ∧ (∀ (c : Config) (n : Nat), (State.construct c).irq n = false)
    ∧ (∀ (s t : State) (v : Word) (n : Nat), v.getLsbD 1 = true → exec (.usbcmd (.write v)) s = .next t →
      t.irq n = false)

/-! ### Invariants -/

/-- The sizes of the tables, the soundness of every ring and Device Slot, entry 0 of the slot table and address 0 (R31,
R35-R49, R200, R201, R220) are kept by every step; so is the canonical form of guest memory (log 8; the form is the
model's own); the configuration never changes (R31). -/
def Obligations.EveryStepKeepsShapeAndMemory : Prop :=
  ∀ s t : State, step s = .next t → t.cfg = s.cfg ∧ (s.Shape → t.Shape) ∧ (s.MemoryOk → t.MemoryOk)

/-- R49, R327: every step keeps the address invariant: an address is marked exactly where one Device Slot has it, a slot
has one exactly where it is Addressed or Configured, and no two share one. -/
def Obligations.EveryStepKeepsTheAddresses : Prop :=
  ∀ s t : State, s.Shape → s.AddressesOk → step s = .next t → t.AddressesOk

/-- R35, R45, R46, R162, R400, R403: every step keeps the ports and the slot table naming each other, with the connect,
speed, link and power bits of PORTSC that go with it. -/
def Obligations.EveryStepKeepsThePorts : Prop :=
  ∀ s t : State, s.Shape → s.PortsOk → step s = .next t → t.PortsOk

/-- R32, R51, R52, R158, R206, R380, R430: every step keeps the run state and R/S in agreement, HSE and SRE clear, a
Running command ring initialised, interrupters 1 and up silent, and the draining flags those of accesses in progress. -/
def Obligations.EveryStepKeepsRunStateAndDrains : Prop :=
  ∀ s t : State, s.Shape → s.RunOk → s.OnlyInterrupterZero → s.AccessesOk → step s = .next t →
    t.RunOk ∧ t.OnlyInterrupterZero ∧ t.AccessesOk

/-- R460, R464, R472: at every sound configuration (Config.ok, which asks R11 and more: log 26) the state after
construction meets every invariant and is quiescent (the guest's event cursor, which the invariants speak of, and the
model's own fields have the values of log 22 and log 24 there); the hardware's own configuration is sound, and
Sys2Proof.Machine.State.reset is its construction. Wherever the invariants hold and no access is in progress the state is quiescent: no draining flag is set (R52). -/
def Obligations.ConstructionIsSafe : Prop :=
  (∀ c : Config, c.ok = true → (State.construct c).Safe ∧ (State.construct c).Quiescent)
    ∧ Config.hardware.ok = true ∧ State.reset = State.construct Config.hardware
    ∧ (∀ s : State, s.AccessesOk → s.locked = none → s.tasks = [] → s.Quiescent)

/-! ### Accesses of 8 bytes -/

/-- R82, R83, R90 (the form of the halves and of their turns: log 2, 3, 16): an aligned 8-byte access is two 32-bit
accesses, the low half at off and then the high half at off + 4, each in a step of its own. The first step is the low
half; the high half is then an access in progress, or, where the low half has started a drain, goes with that drain. When
its turn comes (by the outside, or as the oldest with no input waiting) the step is the high half; a read then returns
`{hi, lo}`. -/
def Obligations.EightByteAccessesAreTwoHalves : Prop :=
  ∀ (s : State) (rest : List Input),
    (∀ (off : Nat) (isWrite : Bool) (v : BitVec 64),
        s.locked = none → s.inbox = .access ⟨off, 8, isWrite, v⟩ :: rest → off % 8 = 0 →
        let high : MmioAccess := ⟨off + 4, 4, isWrite, BitVec.ofNat 64 (v.toNat / 2 ^ 32)⟩
        ∃ t,
          exec (decode s.cfg (.access ⟨off, 4, isWrite, BitVec.ofNat 64 (v.toNat % 2 ^ 32)⟩))
              { s with inbox := rest, cont := some ⟨high, 0⟩ } = .next t
            ∧ (isWrite = false → ∃ x, t.result = .value x ∧ x.toNat < 2 ^ 32 ∧ t.locked = none
              ∧ step s = .next { t with
                  cont := none, tasks := s.tasks ++ [⟨.idle, some ⟨high, BitVec.ofNat 32 x.toNat⟩⟩] })
            ∧ (isWrite = true →
              (t.cont ≠ none → t.locked = none
                ∧ step s = .next { t with cont := none, tasks := s.tasks ++ [⟨.idle, some ⟨high, 0⟩⟩] })
              ∧ (t.cont = none → step s = .next t
                ∧ ((∃ w, t.locked = some ⟨w, some ⟨high, 0⟩⟩ ∧ t.tasks = s.tasks)
                  ∨ (∃ w, t.locked = none ∧ t.tasks = s.tasks ++ [⟨w, some ⟨high, 0⟩⟩])))))
      ∧ (∀ (k : Nat) (h : HighHalf), hasTurn s k rest → s.tasks[k]? = some ⟨.idle, some h⟩ →
        ∃ t,
          exec (decode s.cfg (.access h.access)) { s with inbox := rest, tasks := s.tasks.eraseIdx k } = .next t
            ∧ (h.access.isWrite = true → step s = .next t)
            ∧ (h.access.isWrite = false → ∃ x, t.result = .value x
              ∧ step s = .next { t with
                  result := .value (BitVec.ofNat 64 (x.toNat % 2 ^ 32 * 2 ^ 32 + h.low.toNat)) }))
end

