-- ==== Sys2Proof/Laws/Codec.lean ====
section
/-! SUPPORT. The codec's laws: the words of 16 raw bytes and the bytes of three words are inverse (R110, R172), and what
the bit writes do. -/

namespace Sys2Proof.Machine

theorem rawParameter_encodeTrb (t : Trb) : rawParameter (encodeTrb t) = t.parameter := by
  apply BitVec.eq_of_getLsbD_eq
  intro i hi
  simp only [rawParameter, encodeTrb, field, BitVec.getLsbD_extractLsb', BitVec.getLsbD_append]
  simp [hi]

theorem rawStatus_encodeTrb (t : Trb) : rawStatus (encodeTrb t) = t.status := by
  apply BitVec.eq_of_getLsbD_eq
  intro i hi
  simp only [rawStatus, encodeTrb, field, BitVec.getLsbD_extractLsb', BitVec.getLsbD_append]
  simp [hi]

theorem rawControl_encodeTrb (t : Trb) : rawControl (encodeTrb t) = t.control := by
  apply BitVec.eq_of_getLsbD_eq
  intro i hi
  simp only [rawControl, encodeTrb, field, BitVec.getLsbD_extractLsb', BitVec.getLsbD_append]
  have h1 : ¬ (96 + i < 64) := by omega
  have h2 : ¬ (96 + i - 64 < 32) := by omega
  have h3 : 96 + i - 64 - 32 = i := by omega
  simp [h1, h2, h3, hi]

/-- The words of an encoded TRB are its words (R172). -/
@[simp] theorem rawWords_encodeTrb (t : Trb) : rawWords (encodeTrb t) = t := by
  simp [rawWords, rawParameter_encodeTrb, rawStatus_encodeTrb, rawControl_encodeTrb]

/-- 16 bytes are the encoding of their words (R173). -/
@[simp] theorem encodeTrb_rawWords (b : Raw) : encodeTrb (rawWords b) = b := by
  apply BitVec.eq_of_getLsbD_eq
  intro i hi
  simp only [rawWords, rawParameter, rawStatus, rawControl, encodeTrb, field, BitVec.getLsbD_append,
    BitVec.getLsbD_extractLsb']
  by_cases h1 : i < 64
  · simp [h1]
  · by_cases h2 : i - 64 < 32
    · have h3 : 64 + (i - 64) = i := by omega
      simp [h1, h2, h3]
    · have h3 : 96 + (i - 64 - 32) = i := by omega
      have h4 : i - 64 - 32 < 32 := by omega
      simp [h1, h2, h3, h4]

/-- What a bit of a field write is (R86). -/
theorem getLsbD_setField {n len : Nat} (v : BitVec n) (lo : Nat) (x : BitVec len) (i : Nat) (hi : i < n) :
    (setField v lo x).getLsbD i = if lo ≤ i ∧ i < lo + len then x.getLsbD (i - lo) else v.getLsbD i := by
  simp only [setField, BitVec.getLsbD_or, BitVec.getLsbD_and, BitVec.getLsbD_not, BitVec.getLsbD_shiftLeft,
    BitVec.getLsbD_setWidth, BitVec.getLsbD_allOnes]
  by_cases h1 : lo ≤ i
  · by_cases h2 : i < lo + len
    · have h3 : i - lo < len := by omega
      have h4 : i - lo < n := by omega
      have h5 : ¬ i < lo := by omega
      simp [h1, h2, h3, h4, h5, hi]
    · have h3 : ¬ (i - lo < len) := by omega
      have h5 : len ≤ i - lo := by omega
      simp [h1, h2, h3, hi, BitVec.getLsbD_of_ge _ _ h5]
  · have h2 : i < lo := by omega
    simp [h1, h2, hi]

/-- A field reads back what was written to it (R174-R179). -/
theorem field_setField {n len : Nat} (v : BitVec n) (lo : Nat) (x : BitVec len) (h : lo + len ≤ n) :
    field (setField v lo x) lo len = x := by
  apply BitVec.eq_of_getLsbD_eq
  intro i hi
  rw [field, BitVec.getLsbD_extractLsb', getLsbD_setField _ _ _ _ (by omega)]
  have h1 : lo + i < lo + len := by omega
  simp [hi]

/-- A field disjoint from the written one is unchanged (R86). -/
theorem field_setField_disjoint {n len : Nat} (v : BitVec n) (lo : Nat) (x : BitVec len) (lo2 len2 : Nat)
    (h2 : lo2 + len2 ≤ n) (h : lo2 + len2 ≤ lo ∨ lo + len ≤ lo2) :
    field (setField v lo x) lo2 len2 = field v lo2 len2 := by
  apply BitVec.eq_of_getLsbD_eq
  intro i hi
  rw [field, field, BitVec.getLsbD_extractLsb', BitVec.getLsbD_extractLsb', getLsbD_setField _ _ _ _ (by omega)]
  have h1 : ¬ (lo ≤ lo2 + i ∧ lo2 + i < lo + len) := by omega
  simp [h1]

/-- A written flag bit reads back (R175, R177). -/
theorem bit_setField_same {n : Nat} (v : BitVec n) (i : Nat) (c : Bool) (h : i < n) :
    bit (setField v i (BitVec.ofBool c)) i = c := by
  rw [bit, getLsbD_setField _ _ _ _ h]
  simp

/-- The cycle bit of a stamped slot is the stamp (R203). -/
@[simp] theorem rawCycle_rawSetCycle (b : Raw) (c : Bool) : rawCycle (rawSetCycle b c) = c := by
  simp [rawCycle, rawSetCycle, rawControl_encodeTrb, setCycle, controlWithCycle, bit_setField_same]

/-- The cycle bit of a posted event is the producer's cycle state (R221). -/
@[simp] theorem rawCycle_encode_setCycle (t : Trb) (c : Bool) : rawCycle (encodeTrb (setCycle t c)) = c := by
  simp [rawCycle, rawControl_encodeTrb, setCycle, controlWithCycle, bit_setField_same]

/-- Stamping the cycle bit keeps the type (R175). -/
@[simp] theorem trbType_setCycle (t : Trb) (c : Bool) : trbType (setCycle t c) = trbType t := by
  simp only [trbType, setCycle, controlWithCycle]
  exact field_setField_disjoint _ _ _ _ _ (by omega) (by omega)

end Sys2Proof.Machine
end

