-- ==== Sys2Proof/Laws/Memory.lean ====
section
/-! SUPPORT. The laws of guest memory: a read after a write, and the canonical form that every memory operation keeps
(R96; log 8). -/

namespace Sys2Proof.Machine

/-- A byte read after one byte is put. -/
theorem memGet_memPut (m : List Host.Cell) (a x : Nat) (b : Byte) :
    memGet (memPut m a b) x = if a = x then some b else memGet m x := by
  induction m with
  | nil => simp [memPut, memGet]
  | cons c r ih =>
    by_cases h1 : a < c.1
    · simp [memPut, memGet, h1]
    · by_cases h2 : a = c.1
      · by_cases h3 : a = x
        · simp [memPut, memGet, h2 ▸ h3, h2]
        · have h4 : ¬ c.1 = x := fun h => h3 (h2.trans h)
          simp [memPut, memGet, h2, h4]
      · by_cases h3 : c.1 = x
        · have h4 : ¬ a = x := fun h => h2 (h.trans h3.symm)
          rw [memPut, if_neg h1, if_neg h2, if_neg h4]
          simp [memGet, h3]
        · simp [memPut, memGet, h1, h2, h3, ih]

/-- A byte read after one address is taken out of guest RAM. -/
theorem memGet_memErase (m : List Host.Cell) (a x : Nat) :
    memGet (memErase m a) x = if a = x then none else memGet m x := by
  induction m with
  | nil => simp [memErase, memGet]
  | cons c r ih =>
    simp only [memErase] at ih ⊢
    by_cases h1 : c.1 = a
    · rw [List.filter_cons_of_neg (by simp [h1]), ih]
      by_cases h2 : a = x <;> simp [memGet, h1, h2]
    · rw [List.filter_cons_of_pos (by simp [h1])]
      by_cases h2 : c.1 = x
      · have h3 : ¬ a = x := fun h => h1 (h2.trans h.symm)
        simp [memGet, h2, h3]
      · rw [memGet, if_neg h2, ih, memGet, if_neg h2]

/-- An address outside the bytes put reads as before. -/
theorem memGet_memPutN_outside (bs : List Byte) (m : List Host.Cell) (a : Addr) (x : Nat)
    (h : ∀ k < bs.length, x ≠ (a + BitVec.ofNat 64 k).toNat) : memGet (memPutN m a bs) x = memGet m x := by
  induction bs generalizing m a with
  | nil => rfl
  | cons b bs ih =>
    have h0 : a.toNat ≠ x := by
      intro e
      apply h 0 (by simp)
      simp [e]
    rw [memPutN, ih, memGet_memPut, if_neg h0]
    intro k hk e
    apply h (k + 1) (by simpa using hk)
    rw [e, show a + 1 + BitVec.ofNat 64 k = a + BitVec.ofNat 64 (k + 1) by
      rw [BitVec.add_assoc, show BitVec.ofNat 64 (k + 1) = 1 + BitVec.ofNat 64 k by
        apply BitVec.eq_of_toNat_eq; simp; omega]]

/-- A byte read where bytes were put is the byte put there. -/
theorem memGet_memPutN_inside (bs : List Byte) (m : List Host.Cell) (a : Addr) (k : Nat) (hk : k < bs.length)
    (hl : bs.length ≤ 2 ^ 64) : memGet (memPutN m a bs) (a + BitVec.ofNat 64 k).toNat = bs[k]? := by
  induction bs generalizing m a k with
  | nil => simp at hk
  | cons b bs ih =>
    simp only [List.length_cons] at hk hl
    cases k with
    | zero =>
      rw [memPutN, memGet_memPutN_outside, memGet_memPut, if_pos (by simp)]
      · simp
      · intro j hj e
        simp [BitVec.toNat_add] at e
        have := a.isLt
        omega
    | succ k =>
      rw [memPutN, show a + BitVec.ofNat 64 (k + 1) = a + 1 + BitVec.ofNat 64 k by
        rw [BitVec.add_assoc, show BitVec.ofNat 64 (k + 1) = 1 + BitVec.ofNat 64 k by
          apply BitVec.eq_of_toNat_eq; simp; omega], ih _ _ _ (by omega) (by omega)]
      simp

/-- Every byte that n bytes read consist of (R96). -/
theorem memGetN_spec (m : List Host.Cell) (n : Nat) (a : Addr) (bs : List Byte) (h : memGetN m a n = some bs) :
    bs.length = n ∧ ∀ k < n, memGet m (a + BitVec.ofNat 64 k).toNat = bs[k]? := by
  induction n generalizing a bs with
  | zero =>
    simp only [memGetN, Option.some.injEq] at h
    simp [← h]
  | succ n ih =>
    simp only [memGetN] at h
    split at h
    · rename_i b bs' h1 h2
      cases h
      obtain ⟨h3, h4⟩ := ih _ _ h2
      refine ⟨by simp [h3], fun k hk => ?_⟩
      cases k with
      | zero => simpa using h1
      | succ k =>
        rw [show a + BitVec.ofNat 64 (k + 1) = a + 1 + BitVec.ofNat 64 k by
          rw [BitVec.add_assoc, show BitVec.ofNat 64 (k + 1) = 1 + BitVec.ofNat 64 k by
            apply BitVec.eq_of_toNat_eq; simp; omega], h4 k (by omega)]
        simp
    · cases h

/-- A read of n bytes fails where one of them is not guest RAM (R96). -/
theorem memGetN_none (m : List Host.Cell) (n : Nat) (a : Addr) (k : Nat) (hk : k < n)
    (h : memGet m (a + BitVec.ofNat 64 k).toNat = none) : memGetN m a n = none := by
  match hb : memGetN m a n with
  | none => rfl
  | some bs =>
    obtain ⟨h1, h2⟩ := memGetN_spec m n a bs hb
    rw [h2 k hk] at h
    simp [h1] at h
    omega

/-! ### The canonical form -/

theorem wf_nil : Memory.wf [] = true := by rfl

theorem memPut_keys (m : List Host.Cell) (a : Nat) (b : Byte) :
    ∀ c ∈ memPut m a b, c.1 = a ∨ c ∈ m := by
  induction m with
  | nil => simp [memPut]
  | cons d r ih =>
    intro c hc
    simp only [memPut] at hc
    split_ifs at hc
    · rcases List.mem_cons.1 hc with h | h
      · left; rw [h]
      · right; exact h
    · rcases List.mem_cons.1 hc with h | h
      · left; rw [h]
      · right; exact List.mem_cons_of_mem _ h
    · rcases List.mem_cons.1 hc with h | h
      · right; rw [h]; exact List.mem_cons_self
      · rcases ih c h with h | h
        · left; exact h
        · right; exact List.mem_cons_of_mem _ h

theorem memPut_sorted (m : List Host.Cell) (a : Nat) (b : Byte) (h : (m.map Prod.fst).Pairwise (· < ·)) :
    ((memPut m a b).map Prod.fst).Pairwise (· < ·) := by
  induction m with
  | nil => simp [memPut]
  | cons d r ih =>
    rw [List.map_cons, List.pairwise_cons] at h
    obtain ⟨h1, h2⟩ := h
    simp only [memPut]
    split_ifs with h3 h4
    · rw [List.map_cons, List.pairwise_cons, List.map_cons, List.pairwise_cons]
      refine ⟨fun x hx => ?_, h1, h2⟩
      rcases List.mem_cons.1 hx with hx | hx
      · omega
      · have := h1 x hx; omega
    · rw [List.map_cons, List.pairwise_cons]
      exact ⟨h4 ▸ h1, h2⟩
    · rw [List.map_cons, List.pairwise_cons]
      refine ⟨fun x hx => ?_, ih h2⟩
      obtain ⟨c, hc, rfl⟩ := List.mem_map.1 hx
      rcases memPut_keys r a b c hc with h | h
      · omega
      · exact h1 _ (List.mem_map_of_mem h)

/-- What the canonical form says. -/
theorem wf_iff (m : List Host.Cell) :
    Memory.wf m = true ↔ (m.map Prod.fst).Pairwise (· < ·) ∧ ∀ c ∈ m, c.1 < 2 ^ 64 := by
  simp [Memory.wf]

/-- Putting a byte keeps the canonical form. -/
theorem memPut_wf (m : List Host.Cell) (a : Nat) (b : Byte) (ha : a < 2 ^ 64) (h : Memory.wf m = true) :
    Memory.wf (memPut m a b) = true := by
  rw [wf_iff] at h ⊢
  refine ⟨memPut_sorted m a b h.1, fun c hc => ?_⟩
  rcases memPut_keys m a b c hc with e | e
  · omega
  · exact h.2 c e

/-- Taking an address out of guest RAM keeps the canonical form. -/
theorem memErase_wf (m : List Host.Cell) (a : Nat) (h : Memory.wf m = true) : Memory.wf (memErase m a) = true := by
  rw [wf_iff] at h ⊢
  refine ⟨h.1.sublist (List.filter_sublist.map _), fun c hc => h.2 c (List.mem_of_mem_filter hc)⟩

/-- Putting bytes keeps the canonical form. -/
theorem memPutN_wf (bs : List Byte) (m : List Host.Cell) (a : Addr) (h : Memory.wf m = true) :
    Memory.wf (memPutN m a bs) = true := by
  induction bs generalizing m a with
  | nil => exact h
  | cons b bs ih => exact ih _ _ (memPut_wf m _ b a.isLt h)

/-- Taking addresses out of guest RAM keeps the canonical form. -/
theorem memEraseN_wf (n : Nat) (m : List Host.Cell) (a : Addr) (h : Memory.wf m = true) :
    Memory.wf (memEraseN m a n) = true := by
  induction n generalizing m a with
  | zero => exact h
  | succ n ih => exact ih _ _ (memErase_wf m _ h)

end Sys2Proof.Machine
end

