-- ==== Sys2Proof/Laws/Rings.lean ====
section
/-! SUPPORT. What each ring operation can do, said once, and that each keeps a ring sound (R200-R224, R233). -/

namespace Sys2Proof.Machine

/-! ### Command and transfer rings -/

theorem fresh_ok : Ring.fresh.ok := by decide

/-- What `init` makes (R201). -/
theorem initialise_spec {base : Addr} {size : Nat} {r : Ring} (h : Ring.initialise base size = some r) :
    size ≠ 0 ∧ base ≠ 0 ∧ base.toNat % 16 = 0
      ∧ r = ⟨true, base, size, List.replicate size 0, 0, true, 0, true⟩ := by
  unfold Ring.initialise at h
  split_ifs at h with hc
  cases h
  simp only [not_or, ne_eq, not_not] at hc
  exact ⟨hc.1, hc.2.1, hc.2.2, rfl⟩

theorem initialise_ok {base : Addr} {size : Nat} {r : Ring} (h : Ring.initialise base size = some r)
    (hs : size < 2 ^ 32) : r.ok := by
  obtain ⟨h1, h2, h3, rfl⟩ := initialise_spec h
  intro _
  exact ⟨h2, h3, by simp; omega, hs, by simp, by simp; omega, by simp; omega⟩

/-- What `queue` can do (R203). -/
theorem queue_spec (r : Ring) (b : Raw) :
    (r.init = false ∧ r.queue b = (r, .rejected)) ∨ (r.init = true ∧ r.full = true ∧ r.queue b = (r, .full))
      ∨ (r.init = true ∧ r.full = false
          ∧ r.queue b = ({ r with slots := r.slots.set r.enq (rawSetCycle b r.pcs) }.produced, .queued (r.addr r.enq))) := by
  unfold Ring.queue
  cases hi : r.init <;> cases hf : r.full <;> simp

theorem produced_ok (r : Ring) (h : r.ok) : r.produced.ok := by
  unfold Ring.produced
  split_ifs with hc <;> intro hi <;> obtain ⟨h1, h2, h3, h4, h5, h6, h7⟩ := h hi
  · exact ⟨h1, h2, h3, h4, h5, h3, h7⟩
  · exact ⟨h1, h2, h3, h4, h5, by simp only; omega, h7⟩

theorem queue_ok (r : Ring) (b : Raw) (h : r.ok) : (r.queue b).1.ok := by
  rcases queue_spec r b with ⟨_, e⟩ | ⟨_, _, e⟩ | ⟨_, _, e⟩ <;> rw [e]
  · exact h
  · exact h
  · apply produced_ok
    intro hi
    obtain ⟨h1, h2, h3, h4, h5, h6, h7⟩ := h hi
    exact ⟨h1, h2, h3, h4, by simpa using h5, h6, h7⟩

theorem advance_ok (r : Ring) (h : r.ok) : r.advance.ok := by
  unfold Ring.advance
  split_ifs with hc <;> intro hi <;> obtain ⟨h1, h2, h3, h4, h5, h6, h7⟩ := h hi
  · exact ⟨h1, h2, h3, h4, h5, h6, h3⟩
  · exact ⟨h1, h2, h3, h4, h5, h6, by simp only; omega⟩

/-- A position a range check lets through is inside the range (R222, R233). -/
theorem inRange_index {base ptr : Addr} {size : Nat} (h : inRange base size ptr = true) (hs : size < 2 ^ 32) :
    (ptr - base).toNat / 16 < size := by
  simp only [inRange, Bool.and_eq_true, decide_eq_true_eq, BitVec.le_def, BitVec.lt_def, BitVec.toNat_add,
    BitVec.toNat_ofNat] at h
  have h1 := base.isLt
  have h2 := ptr.isLt
  rw [BitVec.toNat_sub]
  omega

theorem setDequeuePtr_ok (r : Ring) (ptr : Addr) (c : Bool) (h : r.ok) : (r.setDequeuePtr ptr c).ok := by
  unfold Ring.setDequeuePtr
  split_ifs with hc
  · intro hi
    obtain ⟨h1, h2, h3, h4, h5, h6, h7⟩ := h hi
    rw [Bool.and_eq_true] at hc
    exact ⟨h1, h2, h3, h4, h5, h6, inRange_index hc.2 h4⟩
  · exact h

theorem uninit_ok (r : Ring) : { r with init := false }.ok := by intro h; cases h

/-! ### Event rings -/

theorem eventFresh_ok : EventRing.fresh.ok := by decide

/-- What `set_segments` makes (R220). -/
theorem setSegments_spec {gs : List (Addr × Nat)} {e : EventRing} (h : EventRing.setSegments gs = some e) :
    gs ≠ [] ∧ (∀ g ∈ gs, g.2 ≠ 0 ∧ g.1 ≠ 0 ∧ g.1.toNat % 16 = 0)
      ∧ e = ⟨gs.map (fun g => ⟨g.1, g.2, List.replicate g.2 0⟩), 0, 0, true, 0, 0, 0, 0, true⟩ := by
  unfold EventRing.setSegments at h
  split_ifs at h with hc
  cases h
  simp only [not_or, List.any_eq_true, not_exists, not_and, segRejected, Bool.or_eq_true, decide_eq_true_eq,
    not_or, not_not] at hc
  exact ⟨hc.1, fun g hg => ⟨(hc.2 g hg).1.1, (hc.2 g hg).1.2, by have := (hc.2 g hg).2; omega⟩, rfl⟩

theorem setSegments_ok {gs : List (Addr × Nat)} {e : EventRing} (h : EventRing.setSegments gs = some e)
    (hs : ∀ g ∈ gs, g.2 < 2 ^ 16) : e.ok := by
  obtain ⟨h1, h2, rfl⟩ := setSegments_spec h
  have hp : ∀ g ∈ gs.map (fun g => (⟨g.1, g.2, List.replicate g.2 0⟩ : Segment)), g.ok := by
    intro g hg
    obtain ⟨x, hx, rfl⟩ := List.mem_map.1 hg
    obtain ⟨a, b, c⟩ := h2 x hx
    exact ⟨b, c, Nat.pos_of_ne_zero a, hs x hx, by simp⟩
  refine ⟨hp, fun _ => ?_⟩
  obtain ⟨x, xs, rfl⟩ := List.exists_cons_of_ne_nil h1
  have : 0 < x.2 := Nat.pos_of_ne_zero (h2 x (by simp)).1
  simp [EventRing.inside, EventRing.seg, this]

theorem seg_ok (e : EventRing) (s : Nat) (h : ∀ g ∈ e.segs, g.ok) (hs : s < e.segs.length) : (e.seg s).ok := by
  unfold EventRing.seg
  rw [List.getD_eq_getElem _ _ hs]
  exact h _ (List.getElem_mem hs)

/-- Writing an event's bytes changes no segment's base or size. -/
theorem put_seg (e : EventRing) (s i : Nat) (b : Raw) (k : Nat) :
    ((e.put s i b).seg k).size = (e.seg k).size ∧ ((e.put s i b).seg k).base = (e.seg k).base := by
  simp only [EventRing.put, EventRing.seg, List.getD_eq_getElem?_getD, List.getElem?_modify]
  by_cases h : s = k
  · simp only [h]
    cases e.segs[k]? <;> simp
  · simp [h]

theorem put_ok (e : EventRing) (s i : Nat) (b : Raw) (h : e.ok) : (e.put s i b).ok := by
  have hl : (e.put s i b).segs.length = e.segs.length := by simp [EventRing.put]
  constructor
  · intro g hg
    obtain ⟨k, hk, rfl⟩ := List.getElem_of_mem hg
    simp only [EventRing.put, List.getElem_modify]
    have hk2 : k < e.segs.length := by rw [hl] at hk; exact hk
    have := h.1 _ (List.getElem_mem hk2)
    split_ifs
    · exact ⟨this.1, this.2.1, this.2.2.1, this.2.2.2.1, by simpa using this.2.2.2.2⟩
    · exact this
  · intro hn
    have hn2 : e.segs ≠ [] := by
      intro hc
      apply hn
      exact List.length_eq_zero_iff.1 (by rw [hl, hc]; rfl)
    obtain ⟨⟨a1, a2⟩, ⟨b1, b2⟩, ⟨c1, c2⟩⟩ := h.2 hn2
    refine ⟨⟨hl ▸ a1, ?_⟩, ⟨hl ▸ b1, ?_⟩, ⟨hl ▸ c1, ?_⟩⟩
    · rw [(put_seg e s i b _).1]; exact a2
    · rw [(put_seg e s i b _).1]; exact b2
    · rw [(put_seg e s i b _).1]; exact c2

theorem eventProduced_ok (e : EventRing) (h : e.ok) : e.produced.ok := by
  unfold EventRing.produced
  split_ifs with hc
  · refine ⟨h.1, fun hn => ?_⟩
    obtain ⟨⟨a1, a2⟩, b, c⟩ := h.2 hn
    have hl : 0 < e.segs.length := by omega
    have hm : (e.eseg + 1) % e.segs.length < e.segs.length := Nat.mod_lt _ hl
    exact ⟨⟨hm, (seg_ok e _ h.1 hm).2.2.1⟩, b, c⟩
  · refine ⟨h.1, fun hn => ?_⟩
    obtain ⟨⟨a1, a2⟩, b, c⟩ := h.2 hn
    exact ⟨⟨a1, Nat.lt_of_le_of_ne a2 hc⟩, b, c⟩

theorem consumed_ok (e : EventRing) (h : e.ok) : e.consumed.ok := by
  unfold EventRing.consumed
  split_ifs with hc
  · refine ⟨h.1, fun hn => ?_⟩
    obtain ⟨a, b, ⟨c1, c2⟩⟩ := h.2 hn
    have hl : 0 < e.segs.length := by omega
    have hm : (e.gseg + 1) % e.segs.length < e.segs.length := Nat.mod_lt _ hl
    exact ⟨a, b, ⟨hm, (seg_ok e _ h.1 hm).2.2.1⟩⟩
  · refine ⟨h.1, fun hn => ?_⟩
    obtain ⟨a, b, ⟨c1, c2⟩⟩ := h.2 hn
    exact ⟨a, b, ⟨c1, Nat.lt_of_le_of_ne c2 hc⟩⟩

theorem consume_ok (e : EventRing) (h : e.ok) : e.consume.1.ok := by
  unfold EventRing.consume
  split_ifs
  · exact h
  · exact h
  · exact consumed_ok e h

/-- What `queue` of an event ring can do (R221). -/
theorem post_spec (e : EventRing) (t : Trb) :
    (e.segs = [] ∧ e.post t = none)
      ∨ (e.segs ≠ [] ∧ e.post t = some ((e.put e.eseg e.eidx (encodeTrb (setCycle t e.pcs))).produced)) := by
  unfold EventRing.post
  by_cases h : e.segs = [] <;> simp [h]

theorem post_ok (e e1 : EventRing) (t : Trb) (h : e.ok) (hp : e.post t = some e1) : e1.ok := by
  rcases post_spec e t with ⟨_, h1⟩ | ⟨_, h1⟩ <;> rw [h1] at hp <;> cases hp
  exact eventProduced_ok _ (put_ok e _ _ _ h)

/-- Where the search of R222 finds a pointer. -/
theorem segSearch_spec (ptr : Addr) (gs : List Segment) (k s i : Nat) (h : segSearch ptr gs k = some (s, i)) :
    ∃ j, ∃ hj : j < gs.length, s = k + j ∧ inRange gs[j].base gs[j].size ptr = true
      ∧ i = (ptr - gs[j].base).toNat / 16 := by
  induction gs generalizing k with
  | nil => cases h
  | cons g gs ih =>
    unfold segSearch at h
    split_ifs at h with hc
    · cases h
      exact ⟨0, by simp, rfl, hc, rfl⟩
    · obtain ⟨j, hj, h1, h2, h3⟩ := ih _ h
      exact ⟨j + 1, by simpa using hj, by omega, by simpa using h2, by simpa using h3⟩

theorem eventSetDequeuePtr_ok (e : EventRing) (ptr : Addr) (h : e.ok) : (e.setDequeuePtr ptr).ok := by
  unfold EventRing.setDequeuePtr
  split
  · rename_i s i hs
    obtain ⟨j, hj, h1, h2, h3⟩ := segSearch_spec _ _ _ _ _ hs
    have hsj : s = j := by omega
    have hsj2 : s < e.segs.length := by omega
    refine ⟨h.1, fun hn => ?_⟩
    obtain ⟨a, _, c⟩ := h.2 hn
    refine ⟨a, ⟨hsj2, ?_⟩, c⟩
    have hg := h.1 _ (List.getElem_mem hj)
    have := inRange_index h2 (Nat.lt_trans hg.2.2.2.1 (by norm_num))
    show i < (e.seg s).size
    rw [EventRing.seg, List.getD_eq_getElem _ _ hsj2, h3]
    simpa [hsj] using this
  · exact h

end Sys2Proof.Machine
end

