-- ==== Sys2Proof/Laws/State.lean ====
section
/-! SUPPORT. One lemma per field of State for each named update: what the update leaves and what it writes. -/

namespace Sys2Proof.Machine

/-! ### State.setSlot -/

@[simp] theorem State.setSlot_cfg (s : State) (sid : Nat) (o : Option DeviceSlot) : (s.setSlot sid o).cfg = s.cfg := rfl
@[simp] theorem State.setSlot_ctrl (s : State) (sid : Nat) (o : Option DeviceSlot) : (s.setSlot sid o).ctrl = s.ctrl := rfl
@[simp] theorem State.setSlot_usbcmd (s : State) (sid : Nat) (o : Option DeviceSlot) : (s.setSlot sid o).usbcmd = s.usbcmd := rfl
@[simp] theorem State.setSlot_usbsts (s : State) (sid : Nat) (o : Option DeviceSlot) : (s.setSlot sid o).usbsts = s.usbsts := rfl
@[simp] theorem State.setSlot_dnctrl (s : State) (sid : Nat) (o : Option DeviceSlot) : (s.setSlot sid o).dnctrl = s.dnctrl := rfl
@[simp] theorem State.setSlot_crcrPtr (s : State) (sid : Nat) (o : Option DeviceSlot) : (s.setSlot sid o).crcrPtr = s.crcrPtr := rfl
@[simp] theorem State.setSlot_crcrRcs (s : State) (sid : Nat) (o : Option DeviceSlot) : (s.setSlot sid o).crcrRcs = s.crcrRcs := rfl
@[simp] theorem State.setSlot_dcbaap (s : State) (sid : Nat) (o : Option DeviceSlot) : (s.setSlot sid o).dcbaap = s.dcbaap := rfl
@[simp] theorem State.setSlot_maxSlotsEn (s : State) (sid : Nat) (o : Option DeviceSlot) : (s.setSlot sid o).maxSlotsEn = s.maxSlotsEn := rfl
@[simp] theorem State.setSlot_ports (s : State) (sid : Nat) (o : Option DeviceSlot) : (s.setSlot sid o).ports = s.ports := rfl
@[simp] theorem State.setSlot_intrs (s : State) (sid : Nat) (o : Option DeviceSlot) : (s.setSlot sid o).intrs = s.intrs := rfl
@[simp] theorem State.setSlot_db (s : State) (sid : Nat) (o : Option DeviceSlot) : (s.setSlot sid o).db = s.db := rfl
@[simp] theorem State.setSlot_cmdRing (s : State) (sid : Nat) (o : Option DeviceSlot) : (s.setSlot sid o).cmdRing = s.cmdRing := rfl
@[simp] theorem State.setSlot_cmdState (s : State) (sid : Nat) (o : Option DeviceSlot) : (s.setSlot sid o).cmdState = s.cmdState := rfl
@[simp] theorem State.setSlot_evRings (s : State) (sid : Nat) (o : Option DeviceSlot) : (s.setSlot sid o).evRings = s.evRings := rfl
@[simp] theorem State.setSlot_slotTab (s : State) (sid : Nat) (o : Option DeviceSlot) : (s.setSlot sid o).slotTab = s.slotTab.set sid o := rfl
@[simp] theorem State.setSlot_addrUsed (s : State) (sid : Nat) (o : Option DeviceSlot) : (s.setSlot sid o).addrUsed = s.addrUsed := rfl
@[simp] theorem State.setSlot_mem (s : State) (sid : Nat) (o : Option DeviceSlot) : (s.setSlot sid o).mem = s.mem := rfl
@[simp] theorem State.setSlot_unit (s : State) (sid : Nat) (o : Option DeviceSlot) : (s.setSlot sid o).unit = s.unit := rfl
@[simp] theorem State.setSlot_locked (s : State) (sid : Nat) (o : Option DeviceSlot) : (s.setSlot sid o).locked = s.locked := rfl
@[simp] theorem State.setSlot_tasks (s : State) (sid : Nat) (o : Option DeviceSlot) : (s.setSlot sid o).tasks = s.tasks := rfl
@[simp] theorem State.setSlot_inbox (s : State) (sid : Nat) (o : Option DeviceSlot) : (s.setSlot sid o).inbox = s.inbox := rfl
@[simp] theorem State.setSlot_cont (s : State) (sid : Nat) (o : Option DeviceSlot) : (s.setSlot sid o).cont = s.cont := rfl
@[simp] theorem State.setSlot_result (s : State) (sid : Nat) (o : Option DeviceSlot) : (s.setSlot sid o).result = s.result := rfl
@[simp] theorem State.setSlot_calls (s : State) (sid : Nat) (o : Option DeviceSlot) : (s.setSlot sid o).calls = s.calls := rfl
@[simp] theorem State.setSlot_draws (s : State) (sid : Nat) (o : Option DeviceSlot) : (s.setSlot sid o).draws = s.draws := rfl
@[simp] theorem State.setSlot_serial (s : State) (sid : Nat) (o : Option DeviceSlot) : (s.setSlot sid o).serial = s.serial := rfl

/-! ### State.setEvRing -/

@[simp] theorem State.setEvRing_cfg (s : State) (n : Nat) (r : EventRing) : (s.setEvRing n r).cfg = s.cfg := rfl
@[simp] theorem State.setEvRing_ctrl (s : State) (n : Nat) (r : EventRing) : (s.setEvRing n r).ctrl = s.ctrl := rfl
@[simp] theorem State.setEvRing_usbcmd (s : State) (n : Nat) (r : EventRing) : (s.setEvRing n r).usbcmd = s.usbcmd := rfl
@[simp] theorem State.setEvRing_usbsts (s : State) (n : Nat) (r : EventRing) : (s.setEvRing n r).usbsts = s.usbsts := rfl
@[simp] theorem State.setEvRing_dnctrl (s : State) (n : Nat) (r : EventRing) : (s.setEvRing n r).dnctrl = s.dnctrl := rfl
@[simp] theorem State.setEvRing_crcrPtr (s : State) (n : Nat) (r : EventRing) : (s.setEvRing n r).crcrPtr = s.crcrPtr := rfl
@[simp] theorem State.setEvRing_crcrRcs (s : State) (n : Nat) (r : EventRing) : (s.setEvRing n r).crcrRcs = s.crcrRcs := rfl
@[simp] theorem State.setEvRing_dcbaap (s : State) (n : Nat) (r : EventRing) : (s.setEvRing n r).dcbaap = s.dcbaap := rfl
@[simp] theorem State.setEvRing_maxSlotsEn (s : State) (n : Nat) (r : EventRing) : (s.setEvRing n r).maxSlotsEn = s.maxSlotsEn := rfl
@[simp] theorem State.setEvRing_ports (s : State) (n : Nat) (r : EventRing) : (s.setEvRing n r).ports = s.ports := rfl
@[simp] theorem State.setEvRing_intrs (s : State) (n : Nat) (r : EventRing) : (s.setEvRing n r).intrs = s.intrs := rfl
@[simp] theorem State.setEvRing_db (s : State) (n : Nat) (r : EventRing) : (s.setEvRing n r).db = s.db := rfl
@[simp] theorem State.setEvRing_cmdRing (s : State) (n : Nat) (r : EventRing) : (s.setEvRing n r).cmdRing = s.cmdRing := rfl
@[simp] theorem State.setEvRing_cmdState (s : State) (n : Nat) (r : EventRing) : (s.setEvRing n r).cmdState = s.cmdState := rfl
@[simp] theorem State.setEvRing_evRings (s : State) (n : Nat) (r : EventRing) : (s.setEvRing n r).evRings = s.evRings.set n r := rfl
@[simp] theorem State.setEvRing_slotTab (s : State) (n : Nat) (r : EventRing) : (s.setEvRing n r).slotTab = s.slotTab := rfl
@[simp] theorem State.setEvRing_addrUsed (s : State) (n : Nat) (r : EventRing) : (s.setEvRing n r).addrUsed = s.addrUsed := rfl
@[simp] theorem State.setEvRing_mem (s : State) (n : Nat) (r : EventRing) : (s.setEvRing n r).mem = s.mem := rfl
@[simp] theorem State.setEvRing_unit (s : State) (n : Nat) (r : EventRing) : (s.setEvRing n r).unit = s.unit := rfl
@[simp] theorem State.setEvRing_locked (s : State) (n : Nat) (r : EventRing) : (s.setEvRing n r).locked = s.locked := rfl
@[simp] theorem State.setEvRing_tasks (s : State) (n : Nat) (r : EventRing) : (s.setEvRing n r).tasks = s.tasks := rfl
@[simp] theorem State.setEvRing_inbox (s : State) (n : Nat) (r : EventRing) : (s.setEvRing n r).inbox = s.inbox := rfl
@[simp] theorem State.setEvRing_cont (s : State) (n : Nat) (r : EventRing) : (s.setEvRing n r).cont = s.cont := rfl
@[simp] theorem State.setEvRing_result (s : State) (n : Nat) (r : EventRing) : (s.setEvRing n r).result = s.result := rfl
@[simp] theorem State.setEvRing_calls (s : State) (n : Nat) (r : EventRing) : (s.setEvRing n r).calls = s.calls := rfl
@[simp] theorem State.setEvRing_draws (s : State) (n : Nat) (r : EventRing) : (s.setEvRing n r).draws = s.draws := rfl
@[simp] theorem State.setEvRing_serial (s : State) (n : Nat) (r : EventRing) : (s.setEvRing n r).serial = s.serial := rfl

/-! ### State.modifyPort -/

@[simp] theorem State.modifyPort_cfg (s : State) (p : Nat) (f : Port → Port) : (s.modifyPort p f).cfg = s.cfg := rfl
@[simp] theorem State.modifyPort_ctrl (s : State) (p : Nat) (f : Port → Port) : (s.modifyPort p f).ctrl = s.ctrl := rfl
@[simp] theorem State.modifyPort_usbcmd (s : State) (p : Nat) (f : Port → Port) : (s.modifyPort p f).usbcmd = s.usbcmd := rfl
@[simp] theorem State.modifyPort_usbsts (s : State) (p : Nat) (f : Port → Port) : (s.modifyPort p f).usbsts = s.usbsts := rfl
@[simp] theorem State.modifyPort_dnctrl (s : State) (p : Nat) (f : Port → Port) : (s.modifyPort p f).dnctrl = s.dnctrl := rfl
@[simp] theorem State.modifyPort_crcrPtr (s : State) (p : Nat) (f : Port → Port) : (s.modifyPort p f).crcrPtr = s.crcrPtr := rfl
@[simp] theorem State.modifyPort_crcrRcs (s : State) (p : Nat) (f : Port → Port) : (s.modifyPort p f).crcrRcs = s.crcrRcs := rfl
@[simp] theorem State.modifyPort_dcbaap (s : State) (p : Nat) (f : Port → Port) : (s.modifyPort p f).dcbaap = s.dcbaap := rfl
@[simp] theorem State.modifyPort_maxSlotsEn (s : State) (p : Nat) (f : Port → Port) : (s.modifyPort p f).maxSlotsEn = s.maxSlotsEn := rfl
@[simp] theorem State.modifyPort_ports (s : State) (p : Nat) (f : Port → Port) : (s.modifyPort p f).ports = s.ports.modify p f := rfl
@[simp] theorem State.modifyPort_intrs (s : State) (p : Nat) (f : Port → Port) : (s.modifyPort p f).intrs = s.intrs := rfl
@[simp] theorem State.modifyPort_db (s : State) (p : Nat) (f : Port → Port) : (s.modifyPort p f).db = s.db := rfl
@[simp] theorem State.modifyPort_cmdRing (s : State) (p : Nat) (f : Port → Port) : (s.modifyPort p f).cmdRing = s.cmdRing := rfl
@[simp] theorem State.modifyPort_cmdState (s : State) (p : Nat) (f : Port → Port) : (s.modifyPort p f).cmdState = s.cmdState := rfl
@[simp] theorem State.modifyPort_evRings (s : State) (p : Nat) (f : Port → Port) : (s.modifyPort p f).evRings = s.evRings := rfl
@[simp] theorem State.modifyPort_slotTab (s : State) (p : Nat) (f : Port → Port) : (s.modifyPort p f).slotTab = s.slotTab := rfl
@[simp] theorem State.modifyPort_addrUsed (s : State) (p : Nat) (f : Port → Port) : (s.modifyPort p f).addrUsed = s.addrUsed := rfl
@[simp] theorem State.modifyPort_mem (s : State) (p : Nat) (f : Port → Port) : (s.modifyPort p f).mem = s.mem := rfl
@[simp] theorem State.modifyPort_unit (s : State) (p : Nat) (f : Port → Port) : (s.modifyPort p f).unit = s.unit := rfl
@[simp] theorem State.modifyPort_locked (s : State) (p : Nat) (f : Port → Port) : (s.modifyPort p f).locked = s.locked := rfl
@[simp] theorem State.modifyPort_tasks (s : State) (p : Nat) (f : Port → Port) : (s.modifyPort p f).tasks = s.tasks := rfl
@[simp] theorem State.modifyPort_inbox (s : State) (p : Nat) (f : Port → Port) : (s.modifyPort p f).inbox = s.inbox := rfl
@[simp] theorem State.modifyPort_cont (s : State) (p : Nat) (f : Port → Port) : (s.modifyPort p f).cont = s.cont := rfl
@[simp] theorem State.modifyPort_result (s : State) (p : Nat) (f : Port → Port) : (s.modifyPort p f).result = s.result := rfl
@[simp] theorem State.modifyPort_calls (s : State) (p : Nat) (f : Port → Port) : (s.modifyPort p f).calls = s.calls := rfl
@[simp] theorem State.modifyPort_draws (s : State) (p : Nat) (f : Port → Port) : (s.modifyPort p f).draws = s.draws := rfl
@[simp] theorem State.modifyPort_serial (s : State) (p : Nat) (f : Port → Port) : (s.modifyPort p f).serial = s.serial := rfl

/-! ### State.modifyIntr -/

@[simp] theorem State.modifyIntr_cfg (s : State) (n : Nat) (f : Interrupter → Interrupter) : (s.modifyIntr n f).cfg = s.cfg := rfl
@[simp] theorem State.modifyIntr_ctrl (s : State) (n : Nat) (f : Interrupter → Interrupter) : (s.modifyIntr n f).ctrl = s.ctrl := rfl
@[simp] theorem State.modifyIntr_usbcmd (s : State) (n : Nat) (f : Interrupter → Interrupter) : (s.modifyIntr n f).usbcmd = s.usbcmd := rfl
@[simp] theorem State.modifyIntr_usbsts (s : State) (n : Nat) (f : Interrupter → Interrupter) : (s.modifyIntr n f).usbsts = s.usbsts := rfl
@[simp] theorem State.modifyIntr_dnctrl (s : State) (n : Nat) (f : Interrupter → Interrupter) : (s.modifyIntr n f).dnctrl = s.dnctrl := rfl
@[simp] theorem State.modifyIntr_crcrPtr (s : State) (n : Nat) (f : Interrupter → Interrupter) : (s.modifyIntr n f).crcrPtr = s.crcrPtr := rfl
@[simp] theorem State.modifyIntr_crcrRcs (s : State) (n : Nat) (f : Interrupter → Interrupter) : (s.modifyIntr n f).crcrRcs = s.crcrRcs := rfl
@[simp] theorem State.modifyIntr_dcbaap (s : State) (n : Nat) (f : Interrupter → Interrupter) : (s.modifyIntr n f).dcbaap = s.dcbaap := rfl
@[simp] theorem State.modifyIntr_maxSlotsEn (s : State) (n : Nat) (f : Interrupter → Interrupter) : (s.modifyIntr n f).maxSlotsEn = s.maxSlotsEn := rfl
@[simp] theorem State.modifyIntr_ports (s : State) (n : Nat) (f : Interrupter → Interrupter) : (s.modifyIntr n f).ports = s.ports := rfl
@[simp] theorem State.modifyIntr_intrs (s : State) (n : Nat) (f : Interrupter → Interrupter) : (s.modifyIntr n f).intrs = s.intrs.modify n f := rfl
@[simp] theorem State.modifyIntr_db (s : State) (n : Nat) (f : Interrupter → Interrupter) : (s.modifyIntr n f).db = s.db := rfl
@[simp] theorem State.modifyIntr_cmdRing (s : State) (n : Nat) (f : Interrupter → Interrupter) : (s.modifyIntr n f).cmdRing = s.cmdRing := rfl
@[simp] theorem State.modifyIntr_cmdState (s : State) (n : Nat) (f : Interrupter → Interrupter) : (s.modifyIntr n f).cmdState = s.cmdState := rfl
@[simp] theorem State.modifyIntr_evRings (s : State) (n : Nat) (f : Interrupter → Interrupter) : (s.modifyIntr n f).evRings = s.evRings := rfl
@[simp] theorem State.modifyIntr_slotTab (s : State) (n : Nat) (f : Interrupter → Interrupter) : (s.modifyIntr n f).slotTab = s.slotTab := rfl
@[simp] theorem State.modifyIntr_addrUsed (s : State) (n : Nat) (f : Interrupter → Interrupter) : (s.modifyIntr n f).addrUsed = s.addrUsed := rfl
@[simp] theorem State.modifyIntr_mem (s : State) (n : Nat) (f : Interrupter → Interrupter) : (s.modifyIntr n f).mem = s.mem := rfl
@[simp] theorem State.modifyIntr_unit (s : State) (n : Nat) (f : Interrupter → Interrupter) : (s.modifyIntr n f).unit = s.unit := rfl
@[simp] theorem State.modifyIntr_locked (s : State) (n : Nat) (f : Interrupter → Interrupter) : (s.modifyIntr n f).locked = s.locked := rfl
@[simp] theorem State.modifyIntr_tasks (s : State) (n : Nat) (f : Interrupter → Interrupter) : (s.modifyIntr n f).tasks = s.tasks := rfl
@[simp] theorem State.modifyIntr_inbox (s : State) (n : Nat) (f : Interrupter → Interrupter) : (s.modifyIntr n f).inbox = s.inbox := rfl
@[simp] theorem State.modifyIntr_cont (s : State) (n : Nat) (f : Interrupter → Interrupter) : (s.modifyIntr n f).cont = s.cont := rfl
@[simp] theorem State.modifyIntr_result (s : State) (n : Nat) (f : Interrupter → Interrupter) : (s.modifyIntr n f).result = s.result := rfl
@[simp] theorem State.modifyIntr_calls (s : State) (n : Nat) (f : Interrupter → Interrupter) : (s.modifyIntr n f).calls = s.calls := rfl
@[simp] theorem State.modifyIntr_draws (s : State) (n : Nat) (f : Interrupter → Interrupter) : (s.modifyIntr n f).draws = s.draws := rfl
@[simp] theorem State.modifyIntr_serial (s : State) (n : Nat) (f : Interrupter → Interrupter) : (s.modifyIntr n f).serial = s.serial := rfl

/-! ### State.raiseInterrupt -/

@[simp] theorem State.raiseInterrupt_cfg (s : State) (n : Nat) : (s.raiseInterrupt n).cfg = s.cfg := rfl
@[simp] theorem State.raiseInterrupt_ctrl (s : State) (n : Nat) : (s.raiseInterrupt n).ctrl = s.ctrl := rfl
@[simp] theorem State.raiseInterrupt_usbcmd (s : State) (n : Nat) : (s.raiseInterrupt n).usbcmd = s.usbcmd := rfl
@[simp] theorem State.raiseInterrupt_usbsts (s : State) (n : Nat) : (s.raiseInterrupt n).usbsts = { s.usbsts with eint := true } := rfl
@[simp] theorem State.raiseInterrupt_dnctrl (s : State) (n : Nat) : (s.raiseInterrupt n).dnctrl = s.dnctrl := rfl
@[simp] theorem State.raiseInterrupt_crcrPtr (s : State) (n : Nat) : (s.raiseInterrupt n).crcrPtr = s.crcrPtr := rfl
@[simp] theorem State.raiseInterrupt_crcrRcs (s : State) (n : Nat) : (s.raiseInterrupt n).crcrRcs = s.crcrRcs := rfl
@[simp] theorem State.raiseInterrupt_dcbaap (s : State) (n : Nat) : (s.raiseInterrupt n).dcbaap = s.dcbaap := rfl
@[simp] theorem State.raiseInterrupt_maxSlotsEn (s : State) (n : Nat) : (s.raiseInterrupt n).maxSlotsEn = s.maxSlotsEn := rfl
@[simp] theorem State.raiseInterrupt_ports (s : State) (n : Nat) : (s.raiseInterrupt n).ports = s.ports := rfl
@[simp] theorem State.raiseInterrupt_intrs (s : State) (n : Nat) : (s.raiseInterrupt n).intrs = s.intrs.modify n Interrupter.raised := rfl
@[simp] theorem State.raiseInterrupt_db (s : State) (n : Nat) : (s.raiseInterrupt n).db = s.db := rfl
@[simp] theorem State.raiseInterrupt_cmdRing (s : State) (n : Nat) : (s.raiseInterrupt n).cmdRing = s.cmdRing := rfl
@[simp] theorem State.raiseInterrupt_cmdState (s : State) (n : Nat) : (s.raiseInterrupt n).cmdState = s.cmdState := rfl
@[simp] theorem State.raiseInterrupt_evRings (s : State) (n : Nat) : (s.raiseInterrupt n).evRings = s.evRings := rfl
@[simp] theorem State.raiseInterrupt_slotTab (s : State) (n : Nat) : (s.raiseInterrupt n).slotTab = s.slotTab := rfl
@[simp] theorem State.raiseInterrupt_addrUsed (s : State) (n : Nat) : (s.raiseInterrupt n).addrUsed = s.addrUsed := rfl
@[simp] theorem State.raiseInterrupt_mem (s : State) (n : Nat) : (s.raiseInterrupt n).mem = s.mem := rfl
@[simp] theorem State.raiseInterrupt_unit (s : State) (n : Nat) : (s.raiseInterrupt n).unit = s.unit := rfl
@[simp] theorem State.raiseInterrupt_locked (s : State) (n : Nat) : (s.raiseInterrupt n).locked = s.locked := rfl
@[simp] theorem State.raiseInterrupt_tasks (s : State) (n : Nat) : (s.raiseInterrupt n).tasks = s.tasks := rfl
@[simp] theorem State.raiseInterrupt_inbox (s : State) (n : Nat) : (s.raiseInterrupt n).inbox = s.inbox := rfl
@[simp] theorem State.raiseInterrupt_cont (s : State) (n : Nat) : (s.raiseInterrupt n).cont = s.cont := rfl
@[simp] theorem State.raiseInterrupt_result (s : State) (n : Nat) : (s.raiseInterrupt n).result = s.result := rfl
@[simp] theorem State.raiseInterrupt_calls (s : State) (n : Nat) : (s.raiseInterrupt n).calls = s.calls := rfl
@[simp] theorem State.raiseInterrupt_draws (s : State) (n : Nat) : (s.raiseInterrupt n).draws = s.draws := rfl
@[simp] theorem State.raiseInterrupt_serial (s : State) (n : Nat) : (s.raiseInterrupt n).serial = s.serial := rfl

/-! ### State.callReset -/

@[simp] theorem State.callReset_cfg (s : State) (dev : Nat) : (s.callReset dev).cfg = s.cfg := rfl
@[simp] theorem State.callReset_ctrl (s : State) (dev : Nat) : (s.callReset dev).ctrl = s.ctrl := rfl
@[simp] theorem State.callReset_usbcmd (s : State) (dev : Nat) : (s.callReset dev).usbcmd = s.usbcmd := rfl
@[simp] theorem State.callReset_usbsts (s : State) (dev : Nat) : (s.callReset dev).usbsts = s.usbsts := rfl
@[simp] theorem State.callReset_dnctrl (s : State) (dev : Nat) : (s.callReset dev).dnctrl = s.dnctrl := rfl
@[simp] theorem State.callReset_crcrPtr (s : State) (dev : Nat) : (s.callReset dev).crcrPtr = s.crcrPtr := rfl
@[simp] theorem State.callReset_crcrRcs (s : State) (dev : Nat) : (s.callReset dev).crcrRcs = s.crcrRcs := rfl
@[simp] theorem State.callReset_dcbaap (s : State) (dev : Nat) : (s.callReset dev).dcbaap = s.dcbaap := rfl
@[simp] theorem State.callReset_maxSlotsEn (s : State) (dev : Nat) : (s.callReset dev).maxSlotsEn = s.maxSlotsEn := rfl
@[simp] theorem State.callReset_ports (s : State) (dev : Nat) : (s.callReset dev).ports = s.ports := rfl
@[simp] theorem State.callReset_intrs (s : State) (dev : Nat) : (s.callReset dev).intrs = s.intrs := rfl
@[simp] theorem State.callReset_db (s : State) (dev : Nat) : (s.callReset dev).db = s.db := rfl
@[simp] theorem State.callReset_cmdRing (s : State) (dev : Nat) : (s.callReset dev).cmdRing = s.cmdRing := rfl
@[simp] theorem State.callReset_cmdState (s : State) (dev : Nat) : (s.callReset dev).cmdState = s.cmdState := rfl
@[simp] theorem State.callReset_evRings (s : State) (dev : Nat) : (s.callReset dev).evRings = s.evRings := rfl
@[simp] theorem State.callReset_slotTab (s : State) (dev : Nat) : (s.callReset dev).slotTab = s.slotTab := rfl
@[simp] theorem State.callReset_addrUsed (s : State) (dev : Nat) : (s.callReset dev).addrUsed = s.addrUsed := rfl
@[simp] theorem State.callReset_mem (s : State) (dev : Nat) : (s.callReset dev).mem = s.mem := rfl
@[simp] theorem State.callReset_unit (s : State) (dev : Nat) : (s.callReset dev).unit = s.unit := rfl
@[simp] theorem State.callReset_locked (s : State) (dev : Nat) : (s.callReset dev).locked = s.locked := rfl
@[simp] theorem State.callReset_tasks (s : State) (dev : Nat) : (s.callReset dev).tasks = s.tasks := rfl
@[simp] theorem State.callReset_inbox (s : State) (dev : Nat) : (s.callReset dev).inbox = s.inbox := rfl
@[simp] theorem State.callReset_cont (s : State) (dev : Nat) : (s.callReset dev).cont = s.cont := rfl
@[simp] theorem State.callReset_result (s : State) (dev : Nat) : (s.callReset dev).result = s.result := rfl
@[simp] theorem State.callReset_calls (s : State) (dev : Nat) : (s.callReset dev).calls = s.calls ++ [DevCall.reset dev] := rfl
@[simp] theorem State.callReset_draws (s : State) (dev : Nat) : (s.callReset dev).draws = s.draws := rfl
@[simp] theorem State.callReset_serial (s : State) (dev : Nat) : (s.callReset dev).serial = s.serial := rfl

end Sys2Proof.Machine
end

