-- ==== Sys2Proof/Laws/Ops.lean ====
section
/-! SUPPORT. One lemma per shared operation that says everything it can do. -/

namespace Sys2Proof.Machine

/-! ### Draws (log 11) -/

/-- A draw of MFINDEX changes the draws and nothing else (R36). -/
theorem drawMfindex_spec (s : State) :
    (∃ v r, s.draws.mfindex = v :: r ∧ s.drawMfindex = (v, { s with draws := { s.draws with mfindex := r } }))
      ∨ (s.draws.mfindex = [] ∧ s.drawMfindex
          = (Config.freeMfindex s.draws.count, { s with draws := { s.draws with count := s.draws.count + 1 } })) := by
  unfold State.drawMfindex
  cases h : s.draws.mfindex <;> simp

/-- A call of `speed()` is recorded, and its answer taken from the draws (R370). -/
theorem callSpeed_spec (s : State) (dev : Nat) :
    ∃ d, (s.callSpeed dev).2 = { s with calls := s.calls ++ [DevCall.speed dev], draws := d } := by
  unfold State.callSpeed
  cases s.draws.speed <;> exact ⟨_, rfl⟩

/-- A call of `handle_control` or `handle_transfer` is recorded, and its answer taken from the draws (R370). -/
theorem callDevice_spec (s : State) (c : DevCall) :
    ∃ d, (s.callDevice c).2 = { s with calls := s.calls ++ [c], draws := d } := by
  unfold State.callDevice
  cases s.draws.device <;> exact ⟨_, rfl⟩

/-- The verdict of the memory collaborator changes the draws and nothing else (R96). -/
theorem drawMemFault_spec (s : State) : ∃ d, (s.drawMemFault).2 = { s with draws := d } := by
  unfold State.drawMemFault
  cases s.draws.memFault <;> exact ⟨_, rfl⟩

/-- `MemRead` changes the draws and nothing else (R96). -/
theorem memRead_spec (s : State) (a : Addr) (n : Nat) :
    ∃ d, (s.memRead a n).2 = { s with draws := d }
      ∧ ((s.memRead a n).1 = none ∨ (s.memRead a n).1 = memGetN s.mem a n) := by
  obtain ⟨d, hd⟩ := drawMemFault_spec s
  unfold State.memRead
  by_cases h : s.drawMemFault.1 = true <;> simp [h, hd]

/-- `MemWrite` writes the bytes, or writes nothing (R96; log 10). -/
theorem memWrite_spec (s : State) (a : Addr) (bs : List Byte) :
    ∃ d, ((s.memWrite a bs) = (true, { s with draws := d, mem := memPutN s.mem a bs }))
      ∨ ((s.memWrite a bs) = (false, { s with draws := d })) := by
  obtain ⟨d, hd⟩ := drawMemFault_spec s
  refine ⟨d, ?_⟩
  unfold State.memWrite
  by_cases h : s.drawMemFault.1 = true
  · right; simp [h, hd]
  · by_cases h2 : (memGetN s.mem a bs.length).isSome = true
    · left; simp [h, h2, hd]
    · right
      simp only [Bool.not_eq_true] at h h2
      simp [h, h2, hd]

/-! ### Events and interrupts -/

/-- Posting an event changes its event ring and nothing else (R221). -/
theorem postEvent_spec (s : State) (n : Nat) (e : Trb) :
    (s.postEvent n e = (s, false))
      ∨ (n < s.cfg.maxIntrs ∧ ∃ r, (s.evRings.getD n EventRing.fresh).post e = some r
          ∧ s.postEvent n e = (s.setEvRing n r, true)) := by
  unfold State.postEvent
  split_ifs with h
  · cases hp : (s.evRings.getD n EventRing.fresh).post e with
    | none => left; rfl
    | some r => right; exact ⟨h, r, rfl, rfl⟩
  · left; rfl

/-- The state after a posting is the state before it with another list of event rings. -/
theorem postEvent_state (s : State) (n : Nat) (e : Trb) : ∃ r, (s.postEvent n e).1 = { s with evRings := r } := by
  rcases postEvent_spec s n e with h | ⟨_, r, _, h⟩ <;> rw [h]
  · exact ⟨s.evRings, rfl⟩
  · exact ⟨s.evRings.set n r, rfl⟩

/-- `port_change(p)` sets PCD and, where its event was posted, raises interrupter 0 (R402). -/
theorem portChange_spec (s : State) (p : Nat) :
    ∃ r i e, s.portChange p = { s with evRings := r, intrs := i, usbsts := { s.usbsts with pcd := true, eint := e } }
      ∧ (i = s.intrs ∨ i = s.intrs.modify 0 Interrupter.raised) := by
  unfold State.portChange
  obtain ⟨r, hr⟩ := postEvent_state { s with usbsts := { s.usbsts with pcd := true } } 0 (createPortStatusChangeEvent p)
  simp only [hr]
  split_ifs
  · exact ⟨r, s.intrs.modify 0 Interrupter.raised, true, rfl, .inr rfl⟩
  · exact ⟨r, s.intrs, s.usbsts.eint, rfl, .inl rfl⟩

/-! ### Addresses -/

/-- What freeing an address does (R407). -/
theorem freeAddress_spec (s : State) (a : Nat) :
    ((1 ≤ a ∧ a ≤ s.cfg.numAddr) ∧ s.freeAddress a = { s with addrUsed := s.addrUsed.set a false })
      ∨ (¬ (1 ≤ a ∧ a ≤ s.cfg.numAddr) ∧ s.freeAddress a = s) := by
  unfold State.freeAddress
  by_cases h : 1 ≤ a ∧ a ≤ s.cfg.numAddr <;> simp [h]

/-- Freeing an address changes the bitmap and nothing else (R407). -/
theorem freeAddress_state (s : State) (a : Nat) : ∃ u, s.freeAddress a = { s with addrUsed := u } := by
  rcases freeAddress_spec s a with ⟨_, h⟩ | ⟨_, h⟩ <;> rw [h]
  · exact ⟨_, rfl⟩
  · exact ⟨s.addrUsed, rfl⟩

theorem freeSlotAddress_state (s : State) (d : DeviceSlot) : ∃ u, s.freeSlotAddress d = { s with addrUsed := u } := by
  unfold State.freeSlotAddress
  split_ifs
  · exact freeAddress_state s _
  · exact ⟨s.addrUsed, rfl⟩

/-- The address an allocation answers is the lowest free one (R406). -/
theorem allocateAddress_spec (s s1 : State) (a : Nat) (h : s.allocateAddress = some (a, s1)) :
    1 ≤ a ∧ a ≤ s.cfg.numAddr ∧ s.addrUsed.getD a true = false
      ∧ (∀ b, 1 ≤ b → b < a → s.addrUsed.getD b true = true) ∧ s1 = { s with addrUsed := s.addrUsed.set a true } := by
  unfold State.allocateAddress at h
  cases hf : s.freeAddr? with
  | none => simp [hf] at h
  | some x =>
    simp only [hf, Option.map_some, Option.some.injEq, Prod.mk.injEq] at h
    obtain ⟨rfl, rfl⟩ := h
    unfold State.freeAddr? at hf
    rw [List.find?_range'_eq_some] at hf
    obtain ⟨h1, h2, h3⟩ := hf
    simp only [List.mem_range'_1] at h2
    refine ⟨h2.1, by omega, by simpa using h1, fun b hb hlt => ?_, rfl⟩
    simpa using h3 b hb hlt

/-- No address is free where an allocation answers None (R406). -/
theorem allocateAddress_none (s : State) (h : s.allocateAddress = none) :
    ∀ b, 1 ≤ b → b ≤ s.cfg.numAddr → s.addrUsed.getD b true = true := by
  intro b h1 h2
  unfold State.allocateAddress State.freeAddr? at h
  simp only [Option.map_eq_none_iff, List.find?_eq_none, List.mem_range'_1] at h
  simpa using h b ⟨h1, by omega⟩

/-! ### The slot table -/

/-- A slot that is present is at a usable id and in the table (R321). -/
theorem slotAt_spec (s : State) (sid : Nat) (d : DeviceSlot) :
    s.slotAt sid = some d ↔ 1 ≤ sid ∧ sid ≤ s.cfg.maxSlots ∧ s.slotTab[sid]? = some (some d) := by
  unfold State.slotAt
  split_ifs with h
  · rw [List.getD_eq_getElem?_getD]
    cases hg : s.slotTab[sid]? with
    | none => simp
    | some o => cases o <;> simp [h]
  · simp only [false_iff, not_and]
    intro h1 h2
    exact absurd ⟨h1, h2⟩ h

/-! ### The execution of one consumed TRB -/

/-- What a TRB on the command ring does (R320): the cursor moves, the command has its effect, one completion is posted. -/
theorem runTrb_command (s : State) (f : State → State × CmdResult)
    (g : Nat → Nat → DeviceSlot → State → State × XferResult) (h : s.unit = .command) :
    ∃ r b, s.runTrb f g
      = .next { (f { s with cmdRing := s.cmdRing.advance }).1 with evRings := r, result := postResult b } := by
  have key : ∀ e : State × CmdResult, ∃ r b,
      (let p := e.1.complete (s.cmdRing.addr s.cmdRing.deq) e.2.slot e.2.code e.2.extra
       (.next { p.1 with result := postResult p.2 } : Out))
        = .next { e.1 with evRings := r, result := postResult b } := by
    intro e
    obtain ⟨r, hr⟩ := postEvent_state e.1 0
      (createCompletionEvent (s.cmdRing.addr s.cmdRing.deq) e.2.slot e.2.code e.2.extra)
    exact ⟨r, _, by simp only [State.complete, hr]; rfl⟩
  unfold State.runTrb
  split
  · exact key _
  · rename_i hc
    rw [h] at hc
    cases hc

/-- What a TRB on a transfer ring does (R374): the cursor moves, the TRB has its effect, one event is posted. -/
theorem runTrb_transfer (s : State) (f : State → State × CmdResult)
    (g : Nat → Nat → DeviceSlot → State → State × XferResult) (sid ep : Nat) (d : DeviceSlot)
    (h : s.unit = .transfer sid ep) (hd : s.slotAt sid = some d) :
    ∃ r b, s.runTrb f g
      = .next { (g sid ep (d.setRing ep (d.ring ep).advance)
          (s.setSlot sid (some (d.setRing ep (d.ring ep).advance)))).1 with evRings := r, result := postResult b } := by
  have key : ∀ e : State × XferResult, ∃ r b,
      (let p := e.1.postEvent 0 (createTransferEvent ((d.ring ep).addr (d.ring ep).deq) e.2.code e.2.residual
        (BitVec.ofNat 8 sid) (BitVec.ofNat 5 ep))
       (.next { p.1 with result := postResult p.2 } : Out))
        = .next { e.1 with evRings := r, result := postResult b } := by
    intro e
    obtain ⟨r, hr⟩ := postEvent_state e.1 0
      (createTransferEvent ((d.ring ep).addr (d.ring ep).deq) e.2.code e.2.residual (BitVec.ofNat 8 sid)
        (BitVec.ofNat 5 ep))
    exact ⟨r, _, by simp only [hr]; rfl⟩
  unfold State.runTrb
  split
  · rename_i hc
    rw [h] at hc
    cases hc
  · rename_i sid' ep' hc
    rw [h] at hc
    cases hc
    split
    · rename_i hn
      rw [hd] at hn
      cases hn
    · rename_i d' hn
      rw [hd] at hn
      cases hn
      exact key _

/-- The two kinds of consumer. -/
theorem unit_cases (s : State) : s.unit = .command ∨ ∃ sid ep, s.unit = .transfer sid ep := by
  cases s.unit with
  | command => exact .inl rfl
  | transfer sid ep => exact .inr ⟨sid, ep, rfl⟩

/-- Everything the execution of a consumed TRB can answer. -/
theorem runTrb_spec (s t : State) (f : State → State × CmdResult)
    (g : Nat → Nat → DeviceSlot → State → State × XferResult) (h : s.runTrb f g = .next t) :
    (s.unit = .command ∧ ∃ r b,
        t = { (f { s with cmdRing := s.cmdRing.advance }).1 with evRings := r, result := postResult b })
      ∨ (∃ sid ep d, s.unit = .transfer sid ep ∧ s.slotAt sid = some d ∧ ∃ r b,
          t = { (g sid ep (d.setRing ep (d.ring ep).advance)
            (s.setSlot sid (some (d.setRing ep (d.ring ep).advance)))).1 with evRings := r, result := postResult b }) := by
  rcases unit_cases s with hu | ⟨sid, ep, hu⟩
  · obtain ⟨r, b, e⟩ := runTrb_command s f g hu
    rw [e] at h
    injection h with h
    exact .inl ⟨hu, r, b, h.symm⟩
  · match hd : s.slotAt sid with
    | none =>
      unfold State.runTrb at h
      simp only [hu, hd] at h
      cases h
    | some d =>
      obtain ⟨r, b, e⟩ := runTrb_transfer s f g sid ep d hu hd
      rw [e] at h
      injection h with h
      exact .inr ⟨sid, ep, d, hu, hd, r, b, h.symm⟩

end Sys2Proof.Machine
end

