-- ==== Sys2Proof/Laws/PerInstr.lean ====
section
/-! SUPPORT. The family of statements made instruction by instruction: what the decoder answers is well-formed. -/

namespace Sys2Proof.Machine

theorem portRegAt_present (c : Config) (p q : Nat) (r : Reg) (hp : p < c.maxPorts) (h : portRegAt p q = some r) :
    r.present c = true := by
  unfold portRegAt at h
  split_ifs at h <;> cases h <;> simp [Reg.present, hp]

theorem intrRegAt_present (c : Config) (n q : Nat) (r : Reg) (hn : n < c.maxIntrs) (h : intrRegAt n q = some r) :
    r.present c = true := by
  unfold intrRegAt at h
  split_ifs at h <;> cases h <;> simp [Reg.present, hn]

theorem capRegAt_present (c : Config) (x : Nat) (r : Reg) (h : capRegAt x = some r) : r.present c = true := by
  unfold capRegAt at h
  split_ifs at h <;> (cases h; simp [Reg.present])

theorem opRegAt_present (c : Config) (x : Nat) (r : Reg) (h : opRegAt c x = some r) : r.present c = true := by
  unfold opRegAt at h
  split_ifs at h with _ _ _ _ _ _ _ _ _ hp <;>
    first | exact portRegAt_present c _ _ r hp.2 h | (cases h; simp [Reg.present])

theorem rtRegAt_present (c : Config) (x : Nat) (r : Reg) (h : rtRegAt c x = some r) : r.present c = true := by
  unfold rtRegAt at h
  split_ifs at h with _ hn <;> first | exact intrRegAt_present c _ _ r hn.2 h | (cases h; simp [Reg.present])

/-- The register an offset names exists (R84). -/
theorem regAt_present (c : Config) (off : Nat) (r : Reg) (h : regAt c off = some r) : r.present c = true := by
  unfold regAt at h
  split_ifs at h with _ _ _ hd
  · exact capRegAt_present c _ r h
  · exact opRegAt_present c _ r h
  · exact rtRegAt_present c _ r h
  · cases h
    simp [Reg.present, hd.2]

/-- The access R82 makes of a width and an alignment is well-formed. -/
theorem accessOf_wf (a : MmioAccess) (acc : Access) (h : accessOf a = some acc) : acc.wf = true := by
  unfold accessOf at h
  split_ifs at h <;> (cases h; rfl)

theorem regOf_spec (c : Config) (a : MmioAccess) (r : Reg) (acc : Access) (h : regOf c a = some (r, acc)) :
    r.present c = true ∧ acc.wf = true := by
  unfold regOf at h
  split at h
  · rename_i acc' r' h1 h2
    cases h
    exact ⟨regAt_present c _ r h2, accessOf_wf a acc h1⟩
  · cases h

end Sys2Proof.Machine

namespace Sys2Proof.Laws.Decoding

open Sys2Proof Sys2Proof.Machine

/-- Whatever fetched unit the decoder reads as this instruction, the instruction is well-formed (R84, R118, R171). -/
def Statement (i : Instr) : Prop := ∀ (c : Config) (f : Fetched), decode c f = i → i.wf c = true

theorem instrOfTrb_wf (c : Config) (t : Trb) (h : recognised (trbType t) = true) : (instrOfTrb t).wf c = true := by
  have key : (trbType t).toNat < 64 := (trbType t).isLt
  unfold instrOfTrb
  split <;> rename_i hc <;>
    first
    | simp [Instr.wf, Instr.wfTrb, Instr.wfReg, Instr.wfRest, Instr.typeCode, Instr.words, Instr.register, hc]; done
    | (exfalso
       simp only [recognised, Bool.or_eq_true, Bool.and_eq_true, decide_eq_true_eq] at h
       simp_all
       omega)

theorem instrOfReg_wf (c : Config) (r : Reg) (a : Access) (hr : r.present c = true) (ha : a.wf = true) :
    (instrOfReg r a).wf c = true := by
  cases r <;>
    simp_all [instrOfReg, Instr.wf, Instr.wfTrb, Instr.wfReg, Instr.wfRest, Instr.typeCode, Instr.register, Reg.present]

/-- The decoder answers well-formed instructions only. -/
theorem decode_wf (i : Instr) : Statement i := by
  intro c f h
  subst h
  cases f with
  | trb b =>
    simp only [decode, instrOfRaw, decodeTrb]
    split <;> rename_i hd <;> split at hd <;> cases hd
    · exact instrOfTrb_wf c _ ‹_›
    · rename_i hn
      simp [Instr.wf, Instr.wfTrb, Instr.wfReg, Instr.wfRest, Instr.typeCode, Instr.words, Instr.register, hn]
  | access a =>
    simp only [decode, instrOfAccess]
    split
    · rename_i r acc hr
      obtain ⟨h1, h2⟩ := regOf_spec c a r acc hr
      exact instrOfReg_wf c r acc h1 h2
    · rename_i hn
      simp [Instr.wf, Instr.wfTrb, Instr.wfReg, Instr.wfRest, Instr.typeCode, Instr.words, Instr.register, hn]
  | host op => cases op <;> rfl

theorem normal (t : Trb) : Statement (.normal t) := decode_wf _
theorem setupStage (t : Trb) : Statement (.setupStage t) := decode_wf _
theorem dataStage (t : Trb) : Statement (.dataStage t) := decode_wf _
theorem statusStage (t : Trb) : Statement (.statusStage t) := decode_wf _
theorem isoch (t : Trb) : Statement (.isoch t) := decode_wf _
theorem link (t : Trb) : Statement (.link t) := decode_wf _
theorem eventData (t : Trb) : Statement (.eventData t) := decode_wf _
theorem noop (t : Trb) : Statement (.noop t) := decode_wf _
theorem enableSlot (t : Trb) : Statement (.enableSlot t) := decode_wf _
theorem disableSlot (t : Trb) : Statement (.disableSlot t) := decode_wf _
theorem addressDevice (t : Trb) : Statement (.addressDevice t) := decode_wf _
theorem configureEndpoint (t : Trb) : Statement (.configureEndpoint t) := decode_wf _
theorem evaluateContext (t : Trb) : Statement (.evaluateContext t) := decode_wf _
theorem resetEndpoint (t : Trb) : Statement (.resetEndpoint t) := decode_wf _
theorem stopEndpoint (t : Trb) : Statement (.stopEndpoint t) := decode_wf _
theorem setTrDequeuePointer (t : Trb) : Statement (.setTrDequeuePointer t) := decode_wf _
theorem resetDevice (t : Trb) : Statement (.resetDevice t) := decode_wf _
theorem forceEvent (t : Trb) : Statement (.forceEvent t) := decode_wf _
theorem negotiateBandwidth (t : Trb) : Statement (.negotiateBandwidth t) := decode_wf _
theorem setLatencyToleranceValue (t : Trb) : Statement (.setLatencyToleranceValue t) := decode_wf _
theorem getPortBandwidth (t : Trb) : Statement (.getPortBandwidth t) := decode_wf _
theorem forceHeader (t : Trb) : Statement (.forceHeader t) := decode_wf _
theorem noopCommand (t : Trb) : Statement (.noopCommand t) := decode_wf _
theorem transferEvent (t : Trb) : Statement (.transferEvent t) := decode_wf _
theorem commandCompletionEvent (t : Trb) : Statement (.commandCompletionEvent t) := decode_wf _
theorem portStatusChangeEvent (t : Trb) : Statement (.portStatusChangeEvent t) := decode_wf _
theorem bandwidthRequestEvent (t : Trb) : Statement (.bandwidthRequestEvent t) := decode_wf _
theorem doorbellEvent (t : Trb) : Statement (.doorbellEvent t) := decode_wf _
theorem hostControllerEvent (t : Trb) : Statement (.hostControllerEvent t) := decode_wf _
theorem deviceNotificationEvent (t : Trb) : Statement (.deviceNotificationEvent t) := decode_wf _
theorem mfindexWrapEvent (t : Trb) : Statement (.mfindexWrapEvent t) := decode_wf _
theorem malformedTrb (b : Raw) : Statement (.malformedTrb b) := decode_wf _
theorem caplengthHciversion (a : Access) : Statement (.caplengthHciversion a) := decode_wf _
theorem hcsparams1 (a : Access) : Statement (.hcsparams1 a) := decode_wf _
theorem hcsparams2 (a : Access) : Statement (.hcsparams2 a) := decode_wf _
theorem hcsparams3 (a : Access) : Statement (.hcsparams3 a) := decode_wf _
theorem hccparams1 (a : Access) : Statement (.hccparams1 a) := decode_wf _
theorem dboff (a : Access) : Statement (.dboff a) := decode_wf _
theorem rtsoff (a : Access) : Statement (.rtsoff a) := decode_wf _
theorem usbcmd (a : Access) : Statement (.usbcmd a) := decode_wf _
theorem usbsts (a : Access) : Statement (.usbsts a) := decode_wf _
theorem pagesize (a : Access) : Statement (.pagesize a) := decode_wf _
theorem dnctrl (a : Access) : Statement (.dnctrl a) := decode_wf _
theorem crcrLo (a : Access) : Statement (.crcrLo a) := decode_wf _
theorem crcrHi (a : Access) : Statement (.crcrHi a) := decode_wf _
theorem dcbaapLo (a : Access) : Statement (.dcbaapLo a) := decode_wf _
theorem dcbaapHi (a : Access) : Statement (.dcbaapHi a) := decode_wf _
theorem config (a : Access) : Statement (.config a) := decode_wf _
theorem portsc (p : Nat) (a : Access) : Statement (.portsc p a) := decode_wf _
theorem portpmsc (p : Nat) (a : Access) : Statement (.portpmsc p a) := decode_wf _
theorem portliPorthlpmc (p : Nat) (hlpmc : Bool) (a : Access) : Statement (.portliPorthlpmc p hlpmc a) := decode_wf _
theorem mfindex (a : Access) : Statement (.mfindex a) := decode_wf _
theorem iman (n : Nat) (a : Access) : Statement (.iman n a) := decode_wf _
theorem imod (n : Nat) (a : Access) : Statement (.imod n a) := decode_wf _
theorem erstsz (n : Nat) (a : Access) : Statement (.erstsz n a) := decode_wf _
theorem erstbaLo (n : Nat) (a : Access) : Statement (.erstbaLo n a) := decode_wf _
theorem erstbaHi (n : Nat) (a : Access) : Statement (.erstbaHi n a) := decode_wf _
theorem erdpLo (n : Nat) (a : Access) : Statement (.erdpLo n a) := decode_wf _
theorem erdpHi (n : Nat) (a : Access) : Statement (.erdpHi n a) := decode_wf _
theorem db (i : Nat) (a : Access) : Statement (.db i a) := decode_wf _
theorem outOfRange (a : MmioAccess) : Statement (.outOfRange a) := decode_wf _
theorem cmd (b : Raw) : Statement (.cmd b) := decode_wf _
theorem xfer (slot ep : Nat) (b : Raw) : Statement (.xfer slot ep b) := decode_wf _
theorem xinit (slot ep : Nat) (base : Addr) (size : Word) : Statement (.xinit slot ep base size) := decode_wf _
theorem evt (n : Nat) : Statement (.evt n) := decode_wf _
theorem attach (port : Nat) (dev : Nat) : Statement (.attach port dev) := decode_wf _
theorem detach (slot : Nat) : Statement (.detach slot) := decode_wf _

end Sys2Proof.Laws.Decoding
end

