-- ==== Sys2Proof/Tests/Slice0.lean ====
section
/-! SUPPORT. Tests: ill-formed terms, one word per constructor written out from the encoding of the spec, small steps with
the spec's test vectors, and a witness for the hypotheses of every statement. -/

namespace Sys2Proof.Tests

open Sys2Proof Sys2Proof.Machine Sys2Proof.Claims

/-! ### Small states -/

/-- A small configuration: 2 slots, 2 interrupters, 2 ports, endpoints 1 and 2, addresses 1 and 2, 2 command slots. -/
def small : Config :=
  { Config.hardware with maxSlots := 2, maxIntrs := 2, maxPorts := 2, numEp := 3, numAddr := 2, cmdRingSize := 2 }

/-- The small machine after construction. -/
def bare : State := State.construct small

/-- An empty ring. -/
def newRing (base : Addr) (size : Nat) : Ring := ⟨true, base, size, List.replicate size 0, 0, true, 0, true⟩

/-- An event ring of one segment of 4 slots at 0x30000. -/
def newEvRing : EventRing := ⟨[⟨0x30000, 4, List.replicate 4 0⟩], 0, 0, true, 0, 0, 0, 0, true⟩

/-- The "standard setup" of 95_test_vectors.md on the small machine. -/
def std : State :=
  { bare with
    ctrl := .running
    usbcmd := ⟨true, true, false, false⟩
    cmdRing := newRing 0x10000 2
    cmdState := .running
    intrs := [⟨false, true, 0x0FA0, 0, 1, 0x200, 0x3000, 0, false⟩, Interrupter.fresh]
    evRings := [newEvRing, EventRing.fresh] }

/-- A Device Slot at port 0 in a slot state with an address and the states of its endpoints 1 and 2. -/
def device (st : SlotState) (addr : Nat) (e1 e2 : EpState) : DeviceSlot :=
  { DeviceSlot.create small 0 7 1 .high with
    ctx := ⟨0, addr, st, .high⟩
    eps := [EpContext.fresh, ⟨e1, 0⟩, ⟨e2, 0⟩]
    rings := [Ring.fresh, newRing 0x20000 8, Ring.fresh] }

/-- The standard setup with this Device Slot in slot 1, its port connected, and its address marked. -/
def withDevice (d : DeviceSlot) : State :=
  { std with
    slotTab := [none, some d, none]
    addrUsed := [false, d.ctx.deviceAddress == 1, d.ctx.deviceAddress == 2]
    ports := [{ Port.fresh with ccs := true, pls := 7, speed := 3, slot := some 1 }, Port.fresh]
    serial := 1 }

/-- The Configured device of the transfer vectors of 95_test_vectors.md, its endpoint 1 about to run a TRB. -/
def transferring : State :=
  { withDevice (device .configured 1 .running .running) with
    unit := .transfer 1 1
    mem := (List.range 4).map (fun k => (0x50000 + k, 7))
    draws := ⟨[], [], [.ok [1, 2]], [false, false], 0⟩ }

/-- What a next state shows; none for a fault or a refusal. -/
def see {α : Type} (f : State → α) : Out → Option α
  | .next s => some (f s)
  | .fault _ => none
  | .refused _ => none

/-- The words of the event in slot 0 of event ring 0. -/
def event (s : State) : Trb := rawWords ((s.evRing 0).at 0 0)

/-- The slot state and device address of slot 1. -/
def slot1 (s : State) : Option (SlotState × Nat) := (s.slotAt 1).map (fun d => (d.ctx.state, d.ctx.deviceAddress))

/-- The states of endpoints 1 and 2 of slot 1. -/
def eps1 (s : State) : Option (EpState × EpState) := (s.slotAt 1).map (fun d => (d.epState 1, d.epState 2))

/-- Go on from a next state. -/
def andThen (o : Out) (f : State → Out) : Out :=
  match o with
  | .next s => f s
  | .fault r => .fault r
  | .refused r => .refused r

/-- The state after inputs one after another, a step each, then k steps more. -/
def run (s : State) (is : List Input) (k : Nat) : Out :=
  (List.range k).foldl (fun o _ => andThen o step)
    (is.foldl (fun o i => andThen o (fun t => step { t with inbox := [i] })) (.next s))

/-- A 32-bit read. -/
def r32 (off : Nat) : Input := .access ⟨off, 4, false, 0⟩

/-- A 32-bit write. -/
def w (off : Nat) (v : BitVec 64) : Input := .access ⟨off, 4, true, v⟩

/-- What a 32-bit read at an offset returns. -/
def value (s : State) (off : Nat) : Option Result := see State.result (run s [r32 off] 0)

/-- What a 32-bit read at an offset returns after a 32-bit write there. -/
def valueAfter (s : State) (off : Nat) (v : BitVec 64) : Option Result := see State.result (run s [w off v, r32 off] 0)

/-! ### Well-formedness: an ill-formed term for each check -/

/-- wfTrb: a Normal TRB whose words are those of Enable Slot. -/
theorem test_wf_type : (Instr.normal ⟨0, 0, 0x2400⟩).wf Config.hardware = false := by decide
/-- wfReg: registers that the configuration does not have. -/
theorem test_wf_register :
    (Instr.db 33 (.read .full)).wf Config.hardware = false ∧ (Instr.portsc 8 (.read .full)).wf Config.hardware = false
      ∧ (Instr.iman 8 (.write 0)).wf Config.hardware = false := by decide
/-- wfReg: a narrow write that names all four bytes. -/
theorem test_wf_lane : (Instr.usbcmd (.writeNarrow .full)).wf Config.hardware = false := by decide
/-- wfRest: a recognised type is not malformed, and an access to a register is not out of range. -/
theorem test_wf_rest :
    (Instr.malformedTrb 0x00005C01000000000000000000000000).wf Config.hardware = false
      ∧ (Instr.outOfRange ⟨0x20, 4, false, 0⟩).wf Config.hardware = false := by decide
/-- The terms beside them are well formed. -/
theorem test_wf_good :
    (Instr.normal ⟨0, 0, 0x400⟩).wf Config.hardware = true ∧ (Instr.db 32 (.read .full)).wf Config.hardware = true
      ∧ (Instr.usbcmd (.writeNarrow (.byte 3))).wf Config.hardware = true
      ∧ (Instr.malformedTrb 0).wf Config.hardware = true
      ∧ (Instr.outOfRange ⟨0x4000, 8, true, 5⟩).wf Config.hardware = true := by decide

/-! ### Decoding: one word per constructor

A TRB is written control, status, parameter from the high end (R80, R110): control bits 31:24 Slot ID, 20:16 Endpoint
ID, 15:10 type, 0 cycle. -/

theorem test_decode_transfer :
    decode Config.hardware (.trb 0x00000461_00000040_0000000000050000) = .normal ⟨0x50000, 0x40, 0x461⟩
      ∧ decode Config.hardware (.trb 0x00000841_00000008_0012000001000680)
        = .setupStage ⟨0x0012000001000680, 8, 0x841⟩
      ∧ decode Config.hardware (.trb 0x00010C01_00000040_0000000000060000) = .dataStage ⟨0x60000, 0x40, 0x10C01⟩
      ∧ decode Config.hardware (.trb 0x00001001_00000000_0000000000000000) = .statusStage ⟨0, 0, 0x1001⟩
      ∧ decode Config.hardware (.trb 0x00001401_00000000_0000000000000000) = .isoch ⟨0, 0, 0x1401⟩
      ∧ decode Config.hardware (.trb 0x00001803_00000000_0000000000020000) = .link ⟨0x20000, 0, 0x1803⟩
      ∧ decode Config.hardware (.trb 0x00001C01_00000000_0000000000000007) = .eventData ⟨7, 0, 0x1C01⟩
      ∧ decode Config.hardware (.trb 0x00002001_FFC00000_0000000000000000) = .noop ⟨0, 0xFFC00000, 0x2001⟩ := by
  decide

theorem test_decode_command :
    decode Config.hardware (.trb 0x07002401_00000000_0000000000000000) = .enableSlot ⟨0, 0, 0x07002401⟩
      ∧ decode Config.hardware (.trb 0x01002801_00000000_0000000000000000) = .disableSlot ⟨0, 0, 0x01002801⟩
      ∧ decode Config.hardware (.trb 0x01002C01_00000000_0000000000040000) = .addressDevice ⟨0x40000, 0, 0x01002C01⟩
      ∧ decode Config.hardware (.trb 0x01003001_00000000_0000000000040000)
        = .configureEndpoint ⟨0x40000, 0, 0x01003001⟩
      ∧ decode Config.hardware (.trb 0x01003401_00000000_0000000000040000) = .evaluateContext ⟨0x40000, 0, 0x01003401⟩
      ∧ decode Config.hardware (.trb 0x05133801_00000000_0000000000000000) = .resetEndpoint ⟨0, 0, 0x05133801⟩
      ∧ decode Config.hardware (.trb 0x01023C01_00000000_0000000000000000) = .stopEndpoint ⟨0, 0, 0x01023C01⟩
      ∧ decode Config.hardware (.trb 0x01014001_00000000_0000000000020031)
        = .setTrDequeuePointer ⟨0x20031, 0, 0x01014001⟩
      ∧ decode Config.hardware (.trb 0x01004401_00000000_0000000000000000) = .resetDevice ⟨0, 0, 0x01004401⟩
      ∧ decode Config.hardware (.trb 0x01004801_00000000_0000000000000000) = .forceEvent ⟨0, 0, 0x01004801⟩ := by
  decide

theorem test_decode_optional_command :
    decode Config.hardware (.trb 0x00004C01_00000000_0000000000000000) = .negotiateBandwidth ⟨0, 0, 0x4C01⟩
      ∧ decode Config.hardware (.trb 0x00005001_00000000_0000000000000000) = .setLatencyToleranceValue ⟨0, 0, 0x5001⟩
      ∧ decode Config.hardware (.trb 0x00005401_00000000_0000000000000000) = .getPortBandwidth ⟨0, 0, 0x5401⟩
      ∧ decode Config.hardware (.trb 0x00005801_00000000_0000000000000000) = .forceHeader ⟨0, 0, 0x5801⟩
      ∧ decode Config.hardware (.trb 0xFFFF5FFF_FFFFFFFF_FFFFFFFFFFFFFFFF)
        = .noopCommand ⟨0xFFFFFFFFFFFFFFFF, 0xFFFFFFFF, 0xFFFF5FFF⟩ := by decide

theorem test_decode_event :
    decode Config.hardware (.trb 0x01018001_0D000030_0000000000020000) = .transferEvent ⟨0x20000, 0x0D000030, 0x01018001⟩
      ∧ decode Config.hardware (.trb 0x01008401_01000001_0000000000010010)
        = .commandCompletionEvent ⟨0x10010, 0x01000001, 0x01008401⟩
      ∧ decode Config.hardware (.trb 0x00008801_01000000_0000000001000000)
        = .portStatusChangeEvent ⟨0x1000000, 0x01000000, 0x8801⟩
      ∧ decode Config.hardware (.trb 0x00008C01_00000000_0000000000000000) = .bandwidthRequestEvent ⟨0, 0, 0x8C01⟩
      ∧ decode Config.hardware (.trb 0x00009001_00000000_0000000000000000) = .doorbellEvent ⟨0, 0, 0x9001⟩
      ∧ decode Config.hardware (.trb 0x00009401_00000000_0000000000000000) = .hostControllerEvent ⟨0, 0, 0x9401⟩
      ∧ decode Config.hardware (.trb 0x00009801_00000000_0000000000000000) = .deviceNotificationEvent ⟨0, 0, 0x9801⟩
      ∧ decode Config.hardware (.trb 0x00009C01_00000000_0000000000000000) = .mfindexWrapEvent ⟨0, 0, 0x9C01⟩ := by
  decide

/-- V1, V2, V3 and type 40: unrecognised types. -/
theorem test_decode_malformed :
    decode Config.hardware (.trb 0) = .malformedTrb 0
      ∧ decode Config.hardware (.trb 0x00006001_00000000_0000000000000000)
        = .malformedTrb 0x00006001_00000000_0000000000000000
      ∧ decode Config.hardware (.trb 0x0700FC00_00000000_0000000000000000)
        = .malformedTrb 0x0700FC00_00000000_0000000000000000
      ∧ decode Config.hardware (.trb 0x0000A000_00000000_0000000000000000)
        = .malformedTrb 0x0000A000_00000000_0000000000000000 := by decide

/-- Register offsets of R87 and lanes of R82: Capability and Operational banks. -/
theorem test_decode_capability :
    decode Config.hardware (.access ⟨0x02, 2, false, 0⟩) = .caplengthHciversion (.read (.half 1))
      ∧ decode Config.hardware (.access ⟨0x04, 4, false, 0⟩) = .hcsparams1 (.read .full)
      ∧ decode Config.hardware (.access ⟨0x08, 4, true, 3⟩) = .hcsparams2 (.write 3)
      ∧ decode Config.hardware (.access ⟨0x0F, 1, false, 0⟩) = .hcsparams3 (.read (.byte 3))
      ∧ decode Config.hardware (.access ⟨0x10, 8, false, 0⟩) = .hccparams1 (.read .full)
      ∧ decode Config.hardware (.access ⟨0x14, 4, false, 0⟩) = .dboff (.read .full)
      ∧ decode Config.hardware (.access ⟨0x1A, 2, true, 1⟩) = .rtsoff (.writeNarrow (.half 1)) := by decide

theorem test_decode_operational :
    decode Config.hardware (.access ⟨0x20, 4, true, 5⟩) = .usbcmd (.write 5)
      ∧ decode Config.hardware (.access ⟨0x24, 4, false, 0⟩) = .usbsts (.read .full)
      ∧ decode Config.hardware (.access ⟨0x28, 4, false, 0⟩) = .pagesize (.read .full)
      ∧ decode Config.hardware (.access ⟨0x2C, 4, true, 0xFFFF⟩) = .dnctrl (.write 0xFFFF)
      ∧ decode Config.hardware (.access ⟨0x30, 8, true, 0x100010001⟩) = .crcrLo (.write 0x10001)
      ∧ decode Config.hardware (.access ⟨0x34, 4, false, 0⟩) = .crcrHi (.read .full)
      ∧ decode Config.hardware (.access ⟨0x50, 4, true, 0x40⟩) = .dcbaapLo (.write 0x40)
      ∧ decode Config.hardware (.access ⟨0x55, 1, false, 0⟩) = .dcbaapHi (.read (.byte 1))
      ∧ decode Config.hardware (.access ⟨0x58, 4, true, 8⟩) = .config (.write 8) := by decide

theorem test_decode_port :
    decode Config.hardware (.access ⟨0x490, 4, true, 0x10⟩) = .portsc 7 (.write 0x10)
      ∧ decode Config.hardware (.access ⟨0x424, 4, false, 0⟩) = .portpmsc 0 (.read .full)
      ∧ decode Config.hardware (.access ⟨0x438, 4, false, 0⟩) = .portliPorthlpmc 1 false (.read .full)
      ∧ decode Config.hardware (.access ⟨0x43C, 4, true, 9⟩) = .portliPorthlpmc 1 true (.write 9) := by decide

theorem test_decode_runtime :
    decode Config.hardware (.access ⟨0x2000, 4, false, 0⟩) = .mfindex (.read .full)
      ∧ decode Config.hardware (.access ⟨0x2100, 4, true, 2⟩) = .iman 7 (.write 2)
      ∧ decode Config.hardware (.access ⟨0x2024, 4, false, 0⟩) = .imod 0 (.read .full)
      ∧ decode Config.hardware (.access ⟨0x2048, 4, true, 1⟩) = .erstsz 1 (.write 1)
      ∧ decode Config.hardware (.access ⟨0x2030, 4, true, 0x8000⟩) = .erstbaLo 0 (.write 0x8000)
      ∧ decode Config.hardware (.access ⟨0x2034, 4, false, 0⟩) = .erstbaHi 0 (.read .full)
      ∧ decode Config.hardware (.access ⟨0x2058, 4, true, 0x30008⟩) = .erdpLo 1 (.write 0x30008)
      ∧ decode Config.hardware (.access ⟨0x203C, 4, true, 0⟩) = .erdpHi 0 (.write 0) := by decide

/-- Doorbells, the offsets of V49, a misaligned and a 3-byte access. -/
theorem test_decode_doorbell_and_hole :
    decode Config.hardware (.access ⟨0x3004, 4, true, 1⟩) = .db 1 (.write 1)
      ∧ decode Config.hardware (.access ⟨0x3080, 4, false, 0⟩) = .db 32 (.read .full)
      ∧ ([0x1C, 0x5C, 0x4A0, 0x2004, 0x202C, 0x2120, 0x3084, 0x4000].all (fun o =>
        decode Config.hardware (.access ⟨o, 4, true, 1⟩) == .outOfRange ⟨o, 4, true, 1⟩)) = true
      ∧ decode Config.hardware (.access ⟨0x22, 4, false, 0⟩) = .outOfRange ⟨0x22, 4, false, 0⟩
      ∧ decode Config.hardware (.access ⟨0x20, 3, true, 1⟩) = .outOfRange ⟨0x20, 3, true, 1⟩ := by decide

theorem test_decode_host :
    decode Config.hardware (.host (.cmd 5)) = .cmd 5
      ∧ decode Config.hardware (.host (.xfer 1 2 5)) = .xfer 1 2 5
      ∧ decode Config.hardware (.host (.xinit 1 2 0x20000 8)) = .xinit 1 2 0x20000 8
      ∧ decode Config.hardware (.host (.evt 3)) = .evt 3
      ∧ decode Config.hardware (.host (.attach 0 9)) = .attach 0 9
      ∧ decode Config.hardware (.host (.detach 1)) = .detach 1 := by decide

/-- The host's table numbering (log 19). -/
theorem test_table_word :
    decodeTableWord 32 0x5C00 = some (.noopCommand ⟨0, 0, 0x5C00⟩)
      ∧ decodeTableWord 16 0x20 = some (.usbcmd (.read .full)) ∧ decodeTableWord 0 0 = none
      ∧ see State.result (step (State.reset.withFetchWord 32 0x5C00)) = some .dropped := by decide

/-! ### Registers: steps with the vectors V28 to V55 -/

/-- V28, V29. -/
theorem test_capability :
    value State.reset 0x00 = some (.value 0x01000020) ∧ value State.reset 0x04 = some (.value 0x08000820)
      ∧ value State.reset 0x08 = some (.value 0x00000040) ∧ value State.reset 0x0C = some (.value 0)
      ∧ value State.reset 0x10 = some (.value 0x81) ∧ value State.reset 0x14 = some (.value 0x3000)
      ∧ value State.reset 0x18 = some (.value 0x2000)
      ∧ valueAfter State.reset 0x04 0xFFFFFFFF = some (.value 0x08000820) := by decide

/-- V30, V31. -/
theorem test_usbcmd :
    valueAfter bare 0x20 0x78D = some (.value 0x40D)
      ∧ see (fun s => s.ctrl) (exec (.usbcmd (.write 1)) bare) = some .running := by decide

/-- HCRST (R461): the device stays, Disabled with no address, its port is Polling, and the command ring is gone. -/
theorem test_hcrst :
    see (fun s => (s.ctrl, s.cmdRing.init, s.addrUsed))
        (exec (.usbcmd (.write 3)) (withDevice (device .configured 1 .running .running)))
        = some (.halted, false, [false, false, false])
      ∧ see (fun s => (slot1 s, (s.port 0).word))
        (exec (.usbcmd (.write 3)) (withDevice (device .configured 1 .running .running)))
        = some (some (.disabled, 0), 0x00020EE1) := by decide

/-- V54. -/
theorem test_usbsts :
    valueAfter { std with usbsts := ⟨false, true, true, false⟩ } 0x24 0x8 = some (.value 0x10)
      ∧ valueAfter { std with usbsts := ⟨false, true, true, false⟩ } 0x24 0xFFFFFFFF = some (.value 0)
      ∧ value bare 0x24 = some (.value 1) := by decide

/-- V32, V33, V38. -/
theorem test_pagesize_dnctrl_config :
    valueAfter bare 0x28 2 = some (.value 1) ∧ valueAfter bare 0x2C 0xFFFFFFFF = some (.value 0xFFFF)
      ∧ valueAfter bare 0x58 0x1FF = some (.value 0xFF) := by decide

/-- V34 with CMD_RING_SIZE = 2, and V36. -/
theorem test_crcr :
    see (fun s => (s.cmdRing, s.cmdState, s.crcrRcs)) (exec (.crcrLo (.write 0x10001)) bare)
        = some (newRing 0x10000 2, .running, true)
      ∧ see (fun s => s.cmdRing) (run bare [w 0x30 0x20000, w 0x34 1] 0) = some (newRing 0x100020000 2)
      ∧ value std 0x30 = some (.value 8) ∧ value std 0x34 = some (.value 0) := by decide

/-- V93: Command Ring Stopped and Aborted, no interrupt; and V35. -/
theorem test_crcr_stop :
    see (fun s => (s.cmdState, event s, (s.intr 0).ip)) (exec (.crcrLo (.write 2)) std)
        = some (.stopped, ⟨0x10000, 0x18000000, 0x8401⟩, false)
      ∧ see (fun s => s.cmdState) (exec (.crcrLo (.write 6)) std) = some .aborted
      ∧ see (fun s => (s.cmdRing.base, s.cmdRing.enq)) (run std [.host (.cmd 0), w 0x30 0x20000] 0)
        = some (0x10000, 1) := by decide

/-- V37. -/
theorem test_dcbaap :
    valueAfter bare 0x50 0x1234567F = some (.value 0x12345640) ∧ valueAfter bare 0x54 0xAB = some (.value 0xAB) := by
  decide

/-- V52, V53, and V123's last write. -/
theorem test_portsc :
    valueAfter bare 0x420 0x0E000000 = some (.value 0x0E0002A0) ∧ valueAfter bare 0x420 0x10 = some (.value 0x002002A0)
      ∧ see (fun s => (s.usbsts.pcd, (s.intr 0).ip)) (exec (.portsc 0 (.write 0x10)) bare) = some (true, false) := by
  decide

/-- V123: the reset of a connected port. -/
theorem test_portsc_reset :
    see (fun s => ((s.port 0).word, event s, (s.intr 0).ip))
      (exec (.portsc 0 (.write 0x20010)) (withDevice (device .disabled 0 .disabled .disabled)))
      = some (0x00200E03, ⟨0x1000000, 0x01000000, 0x8801⟩, true) := by decide

/-- V51. -/
theorem test_portpmsc_portli :
    valueAfter bare 0x424 0xDEADBEEF = some (.value 0xDEADBEEF) ∧ valueAfter bare 0x428 1 = some (.value 0)
      ∧ valueAfter bare 0x43C 1 = some (.value 0) := by decide

/-- V39: a read takes the next draw, a byte lane too (R82). -/
theorem test_mfindex :
    see (fun s => (s.result, s.draws.mfindex))
        (exec (.mfindex (.read (.byte 1))) { bare with draws := ⟨[0x1234, 5], [], [], [], 0⟩ })
      = some (.value 0x12, [5]) := by decide

/-- V47, V48. -/
theorem test_iman :
    valueAfter { std with intrs := [⟨true, true, 0, 0, 0, 0, 0, 0, false⟩] } 0x2020 2 = some (.value 3)
      ∧ valueAfter { std with intrs := [⟨true, true, 0, 0, 0, 0, 0, 0, false⟩] } 0x2020 1 = some (.value 0)
      ∧ valueAfter { std with intrs := [⟨true, true, 0, 0, 0, 0, 0, 0, false⟩] } 0x2020 3 = some (.value 2) := by decide

/-- V40, V41. -/
theorem test_imod_erstsz :
    value bare 0x2024 = some (.value 0xFA0) ∧ valueAfter bare 0x2024 0x100200 = some (.value 0x100200)
      ∧ valueAfter bare 0x2028 0x30011 = some (.value 0x11) := by decide

/-- The memory of P1 and P4's second entry: a segment 0x30000 of 2 slots at 0x8000, a segment 0x40000 of 1 at 0x8010. -/
def erst : List Host.Cell :=
  memPutN [] 0x8000 ([0, 0, 3, 0, 0, 0, 0, 0, 2, 0, 0, 0, 0, 0, 0, 0] ++ [0x3F, 0, 4, 0, 0, 0, 0, 0, 1, 0, 0, 0, 0, 0, 0, 0])

/-- R283: two entries are read, base bits 5:0 are dropped. -/
theorem test_erstba :
    see (fun s => (s.evRing 0).segs) (exec (.erstbaLo 0 (.write 0x8000))
        { bare with
          mem := erst, intrs := [⟨false, false, 0, 0, 2, 0, 0, 0, false⟩]
          draws := ⟨[], [], [], [false, false], 0⟩ })
      = some [⟨0x30000, 2, [0, 0]⟩, ⟨0x40000, 1, [0]⟩] := by decide

/-- V42, V43, V44: too many entries, none, a MemFault; the half is stored all the same. -/
theorem test_erstba_unchanged :
    see (fun s => ((s.evRing 0).segs, (s.intr 0).erstba)) (exec (.erstbaLo 0 (.write 0x8000))
        { std with intrs := [⟨false, false, 0, 0, 17, 0, 0, 0, false⟩] }) = some (newEvRing.segs, 0x200)
      ∧ see (fun s => ((s.evRing 0).segs, (s.intr 0).erstba)) (exec (.erstbaHi 0 (.write 1))
        { std with intrs := [⟨false, false, 0, 0, 0, 0, 0, 0, false⟩] }) = some (newEvRing.segs, 0x4000000)
      ∧ see (fun s => ((s.evRing 0).segs, (s.intr 0).erstba)) (exec (.erstbaLo 0 (.write 0x8000))
        { std with draws := ⟨[], [], [], [true], 0⟩ }) = some (newEvRing.segs, 0x200) := by decide

/-- V46, and the high half. -/
theorem test_erdp :
    see (fun s => ((s.evRing 0).dseg, (s.evRing 0).didx, (s.intr 0).ehb)) (exec (.erdpLo 0 (.write 0x3001D))
        { std with intrs := [⟨true, true, 0, 0, 1, 0x200, 0x3000, 0, true⟩] }) = some (0, 1, false)
      ∧ valueAfter { std with intrs := [⟨true, true, 0, 0, 1, 0x200, 0x3000, 0, true⟩] } 0x2038 0x3001D
        = some (.value 0x30015)
      ∧ valueAfter std 0x203C 0x12345678 = some (.value 0x12345678) := by decide

/-- V49, V50. -/
theorem test_db_and_out_of_range :
    valueAfter bare 0x3008 0x12345602 = some (.value 2) ∧ valueAfter bare 0x300C 1 = some (.value 0)
      ∧ value bare 0x1C = some (.value 0) ∧ value bare 0x4000 = some (.value 0)
      ∧ see State.result (run bare [.access ⟨0x22, 4, false, 0⟩] 0) = some (.value 0) := by decide

/-- P1, steps 15 to 18: a doorbell, the command, the interrupt. -/
theorem test_command_drain :
    see (fun s => (s.locked, event s, s.irq 0, s.usbsts.eint))
      (run std [.host (.cmd 0x00005C00_00000000_0000000000000000), w 0x3000 0] 2)
      = some (none, ⟨0x10000, 0x01000000, 0x8401⟩, true, true) := by decide

/-- R82: a width-8 read is two steps, low half first; here it reads DBOFF and DCBAAP. -/
theorem test_wide_access :
    see State.result (run { bare with dcbaap := 0x3FFFFFFFFFFFFFF } [.access ⟨0x50, 8, false, 0⟩] 1)
      = some (.value 0xFFFFFFFFFFFFFFC0) := by decide

/-! ### Commands: the vectors V56 to V91 -/

/-- V57, V58, V59. -/
theorem test_enable_slot :
    see (fun s => (event s, slot1 s))
        (exec (.enableSlot ⟨0, 0, 0x2401⟩) (withDevice (device .disabled 0 .disabled .disabled)))
        = some (⟨0x10000, 0x01000000, 0x01008401⟩, some (.default, 0))
      ∧ see event (exec (.enableSlot ⟨0, 0, 0x07002401⟩) (withDevice (device .default 0 .disabled .disabled)))
        = some ⟨0x10000, 0x09000000, 0x8401⟩ := by decide

/-- V62. -/
theorem test_disable_slot :
    see (fun s => (event s, slot1 s, s.addrUsed))
        (exec (.disableSlot ⟨0, 0, 0x01002801⟩) (withDevice (device .configured 1 .running .running)))
        = some (⟨0x10000, 0x01000000, 0x01008401⟩, some (.disabled, 0), [false, false, false])
      ∧ see (fun s => (eps1 s, (s.slotAt 1).map (fun d => (d.ring 1).init)))
        (exec (.disableSlot ⟨0, 0, 0x01002801⟩) (withDevice (device .configured 1 .running .running)))
        = some (some (.disabled, .disabled), some false) := by decide

/-- V60, V61. -/
theorem test_disable_slot_not_enabled :
    see event (exec (.disableSlot ⟨0, 0, 0x03002801⟩) std) = some ⟨0x10000, 0x0B000000, 0x03008401⟩
      ∧ see event (exec (.disableSlot ⟨0, 0, 0x01002801⟩) (withDevice (device .disabled 0 .disabled .disabled)))
        = some ⟨0x10000, 0x0B000000, 0x01008401⟩ := by decide

/-- V63. -/
theorem test_address_device :
    see (fun s => (event s, slot1 s, s.addrUsed))
        (exec (.addressDevice ⟨0x40000, 0, 0x01002C01⟩) (withDevice (device .default 0 .disabled .disabled)))
        = some (⟨0x10000, 0x01000001, 0x01008401⟩, some (.addressed, 1), [false, true, false])
      ∧ see eps1 (exec (.addressDevice ⟨0x40000, 0, 0x01002C01⟩) (withDevice (device .default 0 .disabled .disabled)))
        = some (some (.running, .disabled)) := by decide

/-- V65, V66. -/
theorem test_address_device_refusals :
    see event (exec (.addressDevice ⟨0x40000, 0, 0x01002C01⟩) (withDevice (device .addressed 1 .running .disabled)))
        = some ⟨0x10000, 0x13000000, 0x01008401⟩
      ∧ see event (exec (.addressDevice ⟨0x40000, 0, 0x01002C01⟩)
        { withDevice (device .default 0 .disabled .disabled) with addrUsed := [false, true, true] })
        = some ⟨0x10000, 0x09000000, 0x01008401⟩ := by decide

/-- V70, V71, V69. -/
theorem test_configure_endpoint :
    see (fun s => (event s, slot1 s, eps1 s))
        (exec (.configureEndpoint ⟨0, 0, 0x01003001⟩) (withDevice (device .addressed 1 .running .disabled)))
        = some (⟨0x10000, 0x01000000, 0x01008401⟩, some (.configured, 1), some (.running, .running))
      ∧ see eps1 (exec (.configureEndpoint ⟨0, 0, 0x01003001⟩) (withDevice (device .configured 1 .running .stopped)))
        = some (some (.running, .stopped))
      ∧ see slot1 (exec (.configureEndpoint ⟨0, 0, 0x01003001⟩) (withDevice (device .default 0 .disabled .disabled)))
        = some (some (.default, 0)) := by decide

/-- V72. -/
theorem test_evaluate_context :
    see (fun s => (event s, slot1 s))
        (exec (.evaluateContext ⟨0, 0, 0x01003401⟩) (withDevice (device .addressed 1 .running .disabled)))
        = some (⟨0x10000, 0x01000000, 0x01008401⟩, some (.addressed, 1)) := by decide

/-- V73, V74. -/
theorem test_reset_endpoint :
    see (fun s => (event s, eps1 s))
        (exec (.resetEndpoint ⟨0, 0, 0x01013801⟩) (withDevice (device .addressed 1 .running .disabled)))
        = some (⟨0x10000, 0x01000000, 0x01008401⟩, some (.halted, .disabled))
      ∧ see eps1 (exec (.resetEndpoint ⟨0, 0, 0x01013801⟩) (withDevice (device .addressed 1 .error .disabled)))
        = some (some (.running, .disabled)) := by decide

/-- V76. -/
theorem test_reset_endpoint_zero :
    see (fun s => (event s, eps1 s))
        (exec (.resetEndpoint ⟨0, 0, 0x01003801⟩) (withDevice (device .addressed 1 .running .disabled)))
        = some (⟨0x10000, 0x05000000, 0x01008401⟩, some (.running, .disabled)) := by decide

/-- V77, V78. -/
theorem test_stop_endpoint :
    see (fun s => (event s, eps1 s))
        (exec (.stopEndpoint ⟨0, 0, 0x01023C01⟩) (withDevice (device .configured 1 .running .running)))
        = some (⟨0x10000, 0x01000000, 0x01008401⟩, some (.running, .stopped))
      ∧ see eps1 (exec (.stopEndpoint ⟨0, 0, 0x01023C01⟩) (withDevice (device .configured 1 .running .stopped)))
        = some (some (.running, .running))
      ∧ see eps1 (exec (.stopEndpoint ⟨0, 0, 0x01023C01⟩) (withDevice (device .configured 1 .running .halted)))
        = some (some (.running, .halted)) := by decide

/-- V79, V80. -/
theorem test_set_tr_dequeue_pointer :
    see (fun s => (event s, (s.slotAt 1).map (fun d => ((d.ring 1).deq, (d.ring 1).ccs))))
        (exec (.setTrDequeuePointer ⟨0x20030, 0, 0x01014001⟩) (withDevice (device .addressed 1 .running .disabled)))
        = some (⟨0x10000, 0x01000000, 0x01008401⟩, some (3, false))
      ∧ see (fun s => (s.slotAt 1).map (fun d => (d.ring 1).deq))
        (exec (.setTrDequeuePointer ⟨0x20080, 0, 0x01014001⟩) (withDevice (device .addressed 1 .running .disabled)))
        = some (some 0) := by decide

/-- V82, V83. -/
theorem test_reset_device :
    see (fun s => (event s, slot1 s, s.calls))
        (exec (.resetDevice ⟨0, 0, 0x01004401⟩) (withDevice (device .configured 1 .running .running)))
        = some (⟨0x10000, 0x01000000, 0x01008401⟩, some (.default, 0), [.reset 7])
      ∧ see (fun s => (eps1 s, s.addrUsed))
        (exec (.resetDevice ⟨0, 0, 0x01004401⟩) (withDevice (device .configured 1 .running .running)))
        = some (some (.running, .disabled), [false, false, false])
      ∧ see (fun s => (event s, s.calls))
        (exec (.resetDevice ⟨0, 0, 0x01004401⟩) (withDevice (device .disabled 0 .disabled .disabled)))
        = some (⟨0x10000, 0x0B000000, 0x01008401⟩, []) := by decide

/-- V84. -/
theorem test_noop_command :
    see (fun s => (event s, s.cmdRing.deq)) (exec (.noopCommand ⟨0, 0, 0x05005C01⟩) std)
      = some (⟨0x10000, 0x01000000, 0x8401⟩, 1) := by decide

/-- V85 to V91: TRB Error with the TRB's Slot ID. -/
theorem test_not_commands :
    (notCommands.all (fun mk => see event (exec (mk ⟨0, 0, 0x01000001⟩) std)
        == some ⟨0x10000, 0x05000000, 0x01008401⟩)) = true
      ∧ see event (exec (.malformedTrb 0x0700FC01_00000000_0000000000000000) std)
        = some ⟨0x10000, 0x05000000, 0x07008401⟩ := by decide

/-! ### Transfers: the vectors V95 to V111 -/

/-- V96 with a length of 4. -/
theorem test_normal :
    see (fun s => (event s, s.calls, (List.range 4).map (fun k => memGet s.mem (0x50000 + k))))
        (exec (.normal ⟨0x50000, 4, 0x401⟩) transferring)
      = some (⟨0x20000, 0x0D000002, 0x01018001⟩, [.handleTransfer 7 1 [7, 7, 7, 7]],
          [some 1, some 2, some 7, some 7]) := by decide

/-- V99: immediate data, no memory access. -/
theorem test_normal_immediate :
    see (fun s => (event s, s.calls, s.mem == transferring.mem))
        (exec (.normal ⟨0x0807060504030201, 4, 0x441⟩) { transferring with draws := ⟨[], [], [.ok [9, 9]], [], 0⟩ })
      = some (⟨0x20000, 0x0D000002, 0x01018001⟩, [.handleTransfer 7 1 [1, 2, 3, 4]], true) := by decide

/-- V103, V106. -/
theorem test_setup_stage :
    see (fun s => (event s, s.calls, (s.slotAt 1).map (fun d => d.ctlResp)))
        (exec (.setupStage ⟨0x0012000001000680, 8, 0x841⟩) transferring)
        = some (⟨0x20000, 0x01000000, 0x01018001⟩, [.handleControl 7 [0x80, 6, 0, 1, 0, 0, 0x12, 0]], some [1, 2])
      ∧ see (fun s => (event s, eps1 s))
        (exec (.setupStage ⟨0, 8, 0x841⟩) { transferring with draws := ⟨[], [], [.err], [], 0⟩ })
        = some (⟨0x20000, 0x04000008, 0x01018001⟩, some (.error, .running)) := by decide

/-- The transferring machine with a pending control response of one byte. -/
def answered : State :=
  { transferring with
    slotTab := [none, some { device .configured 1 .running .running with ctlResp := [5] }, none] }

/-- V104 with one byte, V107. -/
theorem test_data_stage :
    see (fun s => (event s, memGet s.mem 0x50000, (s.slotAt 1).map (fun d => d.ctlResp)))
        (exec (.dataStage ⟨0x50000, 4, 0x10C01⟩) answered)
        = some (⟨0x20000, 0x0D000003, 0x01018001⟩, some 5, some [])
      ∧ see (fun s => (event s, memGet s.mem 0x50000, (s.slotAt 1).map (fun d => d.ctlResp)))
        (exec (.dataStage ⟨0x50000, 4, 0xC01⟩) answered)
        = some (⟨0x20000, 0x01000000, 0x01018001⟩, some 7, some []) := by decide

/-- R387: a MemFault keeps the response; V108. -/
theorem test_data_stage_fault :
    see (fun s => (event s, (s.slotAt 1).map (fun d => d.ctlResp)))
        (exec (.dataStage ⟨0x60000, 4, 0x10C01⟩) answered)
        = some (⟨0x20000, 0x02000004, 0x01018001⟩, some [5])
      ∧ see event (exec (.dataStage ⟨0x60000, 0x40, 0x10C01⟩) transferring)
        = some ⟨0x20000, 0x0D000040, 0x01018001⟩ := by decide

/-- V105, V110. -/
theorem test_status_stage_and_noop :
    see (fun s => (event s, (s.slotAt 1).map (fun d => d.ctlResp))) (exec (.statusStage ⟨0, 0, 0x1001⟩) answered)
        = some (⟨0x20000, 0x01000000, 0x01018001⟩, some [])
      ∧ see (fun s => (event s, (s.slotAt 1).map (fun d => (d.ring 1).deq))) (exec (.noop ⟨0, 0, 0x2001⟩) transferring)
        = some (⟨0x20000, 0x01000000, 0x01018001⟩, some 1) := by decide

/-- V109, V111. -/
theorem test_not_transfers :
    (notTransfers.all (fun mk => see (fun s => (event s, s.calls)) (exec (mk ⟨0, 0, 0x01000001⟩) transferring)
        == some (⟨0x20000, 0x05000000, 0x01018001⟩, []))) = true
      ∧ see event (exec (.malformedTrb 0x00006001_00000000_0000000000000000) transferring)
        = some ⟨0x20000, 0x05000000, 0x01018001⟩ := by decide

/-- V116: a split drain of two TRBs, one step each, then one raise; the draining flag is set in between. -/
theorem test_split_drain :
    see (fun s => (s.tasks, event s, rawWords ((s.evRing 0).at 0 1), (s.intr 0).ip, (s.slotAt 1).map (·.isDraining 1)))
        (run (withDevice (device .configured 1 .running .running))
          [.host (.xfer 1 1 0x00002000_00000000_0000000000000000),
            .host (.xfer 1 1 0x00002000_00000000_0000000000000000), w 0x3004 1] 3)
      = some ([], ⟨0x20000, 0x01000000, 0x01018001⟩, ⟨0x20010, 0x01000000, 0x01018001⟩, true, some false) := by decide

/-! ### The host interface -/

/-- V21, steps 1 to 3, and V19. -/
theorem test_cmd :
    see (fun s => (s.result, s.cmdRing.enq, rawWords (s.cmdRing.at 0)))
        (exec (.cmd 0x00000400_00000000_000000000000000A) std) = some (.queued 0x10000, 1, ⟨0xA, 0, 0x401⟩)
      ∧ see (fun s => (s.result, s.cmdRing.enq, s.cmdRing.pcs)) (run std [.host (.cmd 0), .host (.cmd 0)] 0)
        = some (.queued 0x10010, 0, false)
      ∧ see State.result (run std [.host (.cmd 0), .host (.cmd 0), .host (.cmd 0)] 0) = some .full
      ∧ see State.result (exec (.cmd 0) bare) = some .rejected := by decide

/-- R232, V114: an absent slot, endpoint 0 and an uninitialised ring are Rejected. -/
theorem test_xfer :
    see State.result (exec (.xfer 1 1 0) (withDevice (device .configured 1 .running .running)))
        = some (.queued 0x20000)
      ∧ (([(2, 1), (1, 0), (1, 3), (1, 2)] : List (Nat × Nat)).all (fun p =>
        see State.result (exec (.xfer p.1 p.2 0) (withDevice (device .configured 1 .running .running)))
          == some .rejected)) = true := by decide

/-- R230, V16 to V18. -/
theorem test_xinit :
    see (fun s => (s.result, (s.slotAt 1).map (fun d => d.ring 2)))
        (exec (.xinit 1 2 0x21000 2) (withDevice (device .configured 1 .running .running)))
        = some (.initialised, some (newRing 0x21000 2))
      ∧ ((([(0, 4), (0x10000, 0), (0x10008, 4)] : List (Addr × Word))).all (fun p =>
        see State.result (exec (.xinit 1 2 p.1 p.2) (withDevice (device .configured 1 .running .running)))
          == some .initRejected)) = true := by decide

/-- R224 and P1, steps 21 and 22. -/
theorem test_evt :
    see (fun s => (s.result, (s.evRing 0).gidx))
        (run std [.host (.cmd 0x00005C00_00000000_0000000000000000), w 0x3000 0] 2) = some (.none, 0)
      ∧ see (fun s => (s.result, (s.evRing 0).gidx)) (exec (.evt 0)
        { std with evRings := [{ newEvRing with segs := [⟨0x30000, 1, [0x00008401_01000000_0000000000010000]⟩] }] })
        = some (.event 0x00008401_01000000_0000000000010000, 0)
      ∧ see State.result (exec (.evt 0) std) = some .noEvent := by decide

/-- V117 (PORTSC: log 23), V127. -/
theorem test_attach :
    see (fun s => (s.result, (s.port 0).word, event s))
        (exec (.attach 0 7) { std with draws := ⟨[], [.high], [], [], 0⟩ })
        = some (.slot 1, 0x00020EE1, ⟨0x1000000, 0x01000000, 0x8801⟩)
      ∧ see (fun s => (slot1 s, (s.intr 0).ip)) (exec (.attach 0 7) { std with draws := ⟨[], [.high], [], [], 0⟩ })
        = some (some (.disabled, 0), true)
      ∧ see (fun s => ((s.port 1).word, (s.intr 0).ip)) (exec (.attach 1 7) { bare with draws := ⟨[], [.super], [], [], 0⟩ })
        = some (0x00021203, false) := by decide

/-- V120, V121. -/
theorem test_attach_refusals :
    see (fun s => (s.result, s.calls)) (exec (.attach 0 9) (withDevice (device .configured 1 .running .running)))
        = some (.portUnavailable, [])
      ∧ see State.result (exec (.attach 2 9) std) = some .portUnavailable
      ∧ see State.result (exec (.attach 0 9)
        { std with slotTab := [none, some (device .disabled 0 .disabled .disabled), some (device .disabled 0 .disabled .disabled)] })
        = some .noFreeSlots := by decide

/-- V124, V125. -/
theorem test_detach :
    see (fun s => (s.addrUsed, slot1 s, (s.port 0).word, event s))
        (exec (.detach 1) (withDevice (device .addressed 1 .running .disabled)))
        = some ([false, false, false], none, 0x000202A0, ⟨0x1000000, 0x01000000, 0x8801⟩)
      ∧ see (fun s => event s) (exec (.detach 0) (withDevice (device .addressed 1 .running .disabled)))
        = some ⟨0, 0, 0⟩ := by decide

/-! ### Witnesses: states and operands that meet the hypotheses of the statements, clause by clause, at the ends of their
ranges -/

theorem witness_EncodeThenDecodeIsIdentity :
    Config.hardware.ok = true ∧ small.ok = true ∧ (Instr.db 32 (.read (.byte 3))).wf Config.hardware = true
      ∧ (Instr.portsc 1 (.writeNarrow (.half 1))).wf small = true
      ∧ (Instr.mfindexWrapEvent ⟨5, 6, 0xFFFF9FFF⟩).wf small = true
      ∧ (Instr.outOfRange ⟨0x4A0, 2, true, 0⟩).wf Config.hardware = true := by decide

/-- Types 1, 23, 32 and 39; then 0, 24, 31, 40 and 63. -/
theorem witness_CodecBytesAndRoundTrip :
    ([1, 23, 32, 39] : List Nat).all (fun n => decide
        ((1 ≤ (w32 (n * 1024)).toNat / 1024 % 64 ∧ (w32 (n * 1024)).toNat / 1024 % 64 ≤ 23)
          ∨ (32 ≤ (w32 (n * 1024)).toNat / 1024 % 64 ∧ (w32 (n * 1024)).toNat / 1024 % 64 ≤ 39))) = true
      ∧ ([0, 24, 31, 40, 63] : List Nat).all (fun n => decide
        (¬ ((1 ≤ (tableTrb (n * 1024)).toNat / 2 ^ 106 % 64 ∧ (tableTrb (n * 1024)).toNat / 2 ^ 106 % 64 ≤ 23)
          ∨ (32 ≤ (tableTrb (n * 1024)).toNat / 2 ^ 106 % 64
            ∧ (tableTrb (n * 1024)).toNat / 2 ^ 106 % 64 ≤ 39)))) = true
      ∧ ([1, 23, 32, 39] : List Nat).all (fun n => decide
        ((1 ≤ (tableTrb (n * 1024)).toNat / 2 ^ 106 % 64 ∧ (tableTrb (n * 1024)).toNat / 2 ^ 106 % 64 ≤ 23)
          ∨ (32 ≤ (tableTrb (n * 1024)).toNat / 2 ^ 106 % 64
            ∧ (tableTrb (n * 1024)).toNat / 2 ^ 106 % 64 ≤ 39))) = true := by decide

theorem witness_CodecFieldWrites : recognised 39 = true ∧ recognised 1 = true ∧ recognised 24 = false := by decide

theorem witness_MmioAddressMap :
    (Access.writeNarrow (.byte 3)).wf = true ∧ (Access.read .full).wf = true
      ∧ (∀ o ∈ ([0x1C, 0x1F, 0x38, 0x4F, 0x5C, 0x41F, 0x4A0, 0x2004, 0x202C, 0x202F, 0x2120, 0x3084] : List Nat),
        ¬ (o < 0x1C ∨ (0x20 ≤ o ∧ o < 0x38) ∨ (0x50 ≤ o ∧ o < 0x5C)
            ∨ (0x420 ≤ o ∧ o < 0x4A0) ∨ (0x2000 ≤ o ∧ o < 0x2004)
            ∨ (0x2020 ≤ o ∧ o < 0x2120 ∧ ¬ (0xC ≤ o % 0x20 ∧ o % 0x20 < 0x10))
            ∨ (0x3000 ≤ o ∧ o < 0x3084))) := by decide

theorem witness_NarrowAndMisalignedAccesses :
    exec (decode bare.cfg (.access ⟨2 - 2 % 4, 4, false, 0⟩)) bare = .next { bare with result := .value 0x01000020 }
      ∧ 2 % 2 = 0 ∧ 3 % 1 = 0 ∧ 2 % 4 ≠ 0 ∧ 4 % 8 ≠ 0 ∧ 0x18 % 8 = 0
      ∧ (3 ≠ 1 ∧ 3 ≠ 2 ∧ 3 ≠ 4 ∧ 3 ≠ 8) ∧ (0 ≠ 1 ∧ 0 ≠ 2 ∧ 0 ≠ 4 ∧ 0 ≠ 8) := ⟨rfl, by decide⟩

/-- A new ring of size 1, and a ring whose producer and consumer have wrapped. -/
theorem witness_RingIsFirstInFirstOut :
    (newRing 0x10000 1).Made ∧ (newRing 0x10000 1).init = true ∧ (newRing 0x10000 1).empty = true
      ∧ [(0 : Raw)].length = (newRing 0x10000 1).size
      ∧ ((newRing 0x10000 1).queue 0).1.advance.Made ∧ ((newRing 0x10000 1).queue 0).1.advance.empty = true
      ∧ ((newRing 0x10000 1).queue 0).1.advance.pcs = false :=
  have h : (newRing 0x10000 1).Made := .init (base := 0x10000) (size := 1) rfl
  ⟨h, by decide, by decide, by decide, .next (.queue 0 h) rfl, by decide, by decide⟩

theorem witness_EventRingTogglesItsCycle :
    EventRing.setSegments [(0x30000, 4)] = some newEvRing ∧ (List.replicate 4 (default : Trb)).length = 4 := by decide

/-- An interrupter too many, a ring without segments; a position inside a segment and one at its end. -/
theorem witness_PostEventRule :
    std.cfg.maxIntrs ≤ 2 ∧ (std.evRing 1).segs = [] ∧ 0 < std.cfg.maxIntrs ∧ (std.evRing 0).segs ≠ []
      ∧ (std.evRing 0).eidx + 1 ≠ ((std.evRing 0).seg (std.evRing 0).eseg).size
      ∧ ({ newEvRing with eidx := 3 } : EventRing).eidx + 1 = (newEvRing.seg 0).size := by decide

/-- The first and the last byte of the segment, and the byte after it. -/
theorem witness_EventDequeuePointerSearch :
    (newEvRing.segs[0]).base ≤ 0x30000 ∧ (0x30000 : Addr) < (newEvRing.segs[0]).base + BitVec.ofNat 64 (16 * 4)
      ∧ (newEvRing.segs[0]).base ≤ 0x3003F ∧ (0x3003F : Addr) < (newEvRing.segs[0]).base + BitVec.ofNat 64 (16 * 4)
      ∧ (∀ g ∈ newEvRing.segs, ¬ (g.base ≤ 0x30040 ∧ (0x30040 : Addr) < g.base + BitVec.ofNat 64 (16 * g.size))) := by
  decide

/-- The lowest and the highest address free, none free, a bitmap of each form, addresses 0 and NUM_ADDR + 1. -/
theorem witness_AddressAllocator :
    bare.addrUsed.getD 1 true = false
      ∧ (let s := { bare with addrUsed := [false, true, false] };
        s.addrUsed.getD 2 true = false ∧ (∀ b < 2, 1 ≤ b → s.addrUsed.getD b true = true)
          ∧ s.addrUsed = (List.range (s.cfg.numAddr + 1)).map (fun j => decide (1 ≤ j ∧ j < 2)))
      ∧ (let s := { bare with addrUsed := [false, true, true] };
        (∀ b < s.cfg.numAddr + 1, 1 ≤ b → s.addrUsed.getD b true = true)
          ∧ s.addrUsed = (List.range (s.cfg.numAddr + 1)).map (fun j => decide (1 ≤ j)))
      ∧ 1 ≤ bare.cfg.numAddr ∧ 2 ≤ bare.cfg.numAddr ∧ bare.cfg.numAddr < 3 := by decide

theorem witness_CapabilityBankIsConstant :
    bare.cfg.ok = true ∧ State.reset.cfg.ok = true ∧ State.reset.cfg = Config.hardware := by decide

theorem witness_OutOfRangeAccesses :
    State.reset.cfg.maxPorts ≤ 8 ∧ State.reset.cfg.maxIntrs ≤ 8 ∧ State.reset.cfg.maxSlots < 33 := by decide

/-- The last port and interrupter: StatusAndPlainRegisters, PortscRule, ImanImodErstszRules, ErstbaLoadsSegments,
ErdpRule. -/
theorem witness_last_port_and_interrupter :
    7 < State.reset.cfg.maxPorts ∧ 7 < State.reset.cfg.maxIntrs := by decide

/-- Stop, abort, and the four cases of a pointer write. -/
theorem witness_CrcrRule :
    std.cfg.ok = true ∧ (2 : Word).getLsbD 1 = true ∧ (4 : Word).getLsbD 2 = true
      ∧ ((0x10001 : Word).getLsbD 1 = false ∧ (0x10001 : Word).getLsbD 2 = false)
      ∧ (low6 bare.crcrPtr 0x40 ≠ 0 ∧ bare.cmdRing.init = false)
      ∧ (low6 std.crcrPtr 0x40 ≠ 0 ∧ (std.cmdRing.slots.getD std.cmdRing.deq 0).getLsbD 96 ≠ std.cmdRing.ccs)
      ∧ ¬ (low6 bare.crcrPtr 1 ≠ 0) ∧ high6 bare.crcrPtr 1 ≠ 0 ∧ ¬ (high6 bare.crcrPtr 0 ≠ 0)
      ∧ (let s := { std with cmdRing := (std.cmdRing.queue 0).1 };
        s.cmdRing.init = true ∧ (s.cmdRing.slots.getD s.cmdRing.deq 0).getLsbD 96 = s.cmdRing.ccs) := by decide

theorem witness_MfindexDraws :
    ({ bare with draws := ⟨[0x3FFF], [], [], [], 0⟩ } : State).draws.mfindex = 0x3FFF :: [] ∧ bare.draws.mfindex = [] := by
  decide

/-- A Running controller with a Stopped ring, and with a Running one; a Halted one; an uninitialised ring. -/
theorem witness_CommandDoorbell :
    32 ≤ State.reset.cfg.maxSlots
      ∧ (let s := { std with cmdState := .stopped };
        s.ctrl = .running ∧ (s.cmdRing.init = true ∨ s.cmdState = .running))
      ∧ (std.ctrl = .running ∧ (std.cmdRing.init = true ∨ std.cmdState = .running))
      ∧ ¬ (bare.ctrl = .running ∧ (bare.cmdRing.init = true ∨ bare.cmdState = .running))
      ∧ (let s := { bare with ctrl := .running };
        ¬ (s.ctrl = .running ∧ (s.cmdRing.init = true ∨ s.cmdState = .running))) := by decide

/-- A Configured device, endpoints 1 and 2 Running. -/
abbrev busy : DeviceSlot := device .configured 1 .running .running

/-- An absent slot; targets 0, 1, 2 and 3 of a present one; a drain in progress; an atomic drain. -/
theorem witness_TransferDoorbell :
    1 ≤ 2 ∧ 2 ≤ (withDevice busy).cfg.maxSlots ∧ (withDevice busy).slotAt 2 = none
      ∧ (withDevice busy).slotAt 1 = some busy
      ∧ (¬ (1 ≤ (0 : Word).toNat % 256 ∧ (0 : Word).toNat % 256 < (withDevice busy).cfg.numEp))
      ∧ (1 ≤ (0x50001 : Word).toNat % 256 ∧ (2 : Word).toNat % 256 < (withDevice busy).cfg.numEp)
      ∧ (¬ (1 ≤ (3 : Word).toNat % 256 ∧ (3 : Word).toNat % 256 < (withDevice busy).cfg.numEp))
      ∧ (withDevice busy).cfg.atomicTransferDrain = false ∧ busy.draining.getD 1 false = false
      ∧ (busy.setDraining 1 true).draining.getD 1 false = true
      ∧ ({ withDevice busy with cfg := { small with atomicTransferDrain := true } } : State).slotAt 1 = some busy := by
  decide

/-- Slot ids 0, MAX_SLOTS + 1 and an empty entry. -/
theorem witness_CommandsCompletedWithoutEffect :
    std.unit = .command ∧ (0x00002801 : Word).toNat / 2 ^ 24 = 0 ∧ std.cfg.maxSlots < (0x03002801 : Word).toNat / 2 ^ 24
      ∧ std.slotTab.getD ((0x02002801 : Word).toNat / 2 ^ 24) none = none := by decide

/-- Slot 2 Disabled above a Default slot 1; no slot Disabled. -/
theorem witness_EnableSlotRule :
    (let s := { std with slotTab := [none, some (device .default 0 .disabled .disabled),
        some (device .disabled 0 .disabled .disabled)] };
      s.unit = .command ∧ s.slotAt 2 = some (device .disabled 0 .disabled .disabled)
        ∧ (∀ j < 2, ∀ d' ∈ s.slotAt j, d'.ctx.state ≠ .disabled))
      ∧ (∀ j d', (withDevice busy).slotAt j = some d' → d'.ctx.state ≠ .disabled) := by
  refine ⟨by decide, fun j d' h => ?_⟩
  match j, h with
  | 0, h => cases h
  | 1, h => cases h; decide
  | 2, h => cases h
  | n + 3, h => rw [State.slotAt, if_neg (fun g => absurd g.2 (Nat.not_le.2 (Nat.lt_add_left n (by decide))))] at h; cases h

/-- Slot 1 of the command's Slot ID, present; and its four slot states: DisableSlotRule, AddressDeviceRule,
ConfigureEvaluateAndNoOp, ResetDeviceRule. -/
theorem witness_slot_commands :
    (∀ st ∈ [SlotState.disabled, .default, .addressed, .configured],
        (withDevice (device st 0 .running .disabled)).unit = .command
          ∧ (withDevice (device st 0 .running .disabled)).slotAt ((0x01002801 : Word).toNat / 2 ^ 24)
            = some (device st 0 .running .disabled))
      ∧ 1 ≤ busy.ctx.deviceAddress ∧ busy.ctx.deviceAddress ≤ (withDevice busy).cfg.numAddr := by decide

/-- Address 2 the lowest free one, and none free, on a Default slot. -/
theorem witness_AddressDeviceRule :
    (let s := { withDevice (device .default 0 .disabled .disabled) with addrUsed := [false, true, false] };
      2 ≤ s.cfg.numAddr ∧ 2 < 2 ^ 24 ∧ s.addrUsed.getD 2 true = false
        ∧ (∀ b < 2, 1 ≤ b → s.addrUsed.getD b true = true))
      ∧ (let s := { withDevice (device .default 0 .disabled .disabled) with addrUsed := [false, true, true] };
        ∀ b < s.cfg.numAddr + 1, 1 ≤ b → s.addrUsed.getD b true = true) := by decide

/-- Endpoint ids 0, 3 (outside), 2 (the last), and an endpoint 1 in each state. -/
theorem witness_ResetAndStopEndpointRules :
    (¬ (1 ≤ (0x01003801 : Word).toNat / 2 ^ 16 % 32)) ∧ (¬ ((0x01033801 : Word).toNat / 2 ^ 16 % 32 < small.numEp))
      ∧ (1 ≤ (0x01023801 : Word).toNat / 2 ^ 16 % 32 ∧ (0x01023801 : Word).toNat / 2 ^ 16 % 32 < small.numEp)
      ∧ (∀ st ∈ [EpState.disabled, .running, .halted, .stopped, .error],
        (withDevice (device .configured 1 st .disabled)).unit = .command
          ∧ (withDevice (device .configured 1 st .disabled)).slotAt ((0x01013801 : Word).toNat / 2 ^ 24)
            = some (device .configured 1 st .disabled)
          ∧ (device .configured 1 st .disabled).epState ((0x01013801 : Word).toNat / 2 ^ 16 % 32) = st) := by decide

/-- The first and the last slot of ring 1, the address after it, and the uninitialised ring 2. -/
theorem witness_SetTrDequeuePointerRule :
    (withDevice busy).slotAt ((0x01014001 : Word).toNat / 2 ^ 24) = some busy ∧ 1 < busy.rings.length
      ∧ ((busy.ring 1).init = true ∧ (busy.ring 1).base ≤ 0x20000
        ∧ (0x20070 : Addr) < (busy.ring 1).base + BitVec.ofNat 64 (16 * (busy.ring 1).size))
      ∧ ¬ ((0x20080 : Addr) < (busy.ring 1).base + BitVec.ofNat 64 (16 * (busy.ring 1).size))
      ∧ (busy.ring 2).init = false ∧ 2 < busy.rings.length := by decide

/-- A transfer ring's consumer on a present slot: TransferRingTrbErrors, NormalTrbRule, SetupStatusAndNoOpRules,
DataStageRule. -/
theorem witness_transfer_trbs :
    transferring.unit = .transfer 1 1 ∧ 1 < 32 ∧ transferring.slotAt 1 = some busy := by decide

/-- The cases of NormalTrbRule: immediate or not; a read that fails and one that succeeds; an answer Err, empty, short,
as long as the length; a write that succeeds and one that fails. -/
theorem witness_NormalTrbRule :
    (0x441 : Word).getLsbD 6 = true ∧ (0x401 : Word).getLsbD 6 = false
      ∧ ({ transferring with draws := ⟨[], [], [], [true], 0⟩ } : State).memRead 0x50000 4
        = (none, { transferring with draws := ⟨[], [], [], [], 0⟩ })
      ∧ transferring.memRead 0x50000 4
        = (some [7, 7, 7, 7], { transferring with draws := ⟨[], [], [.ok [1, 2]], [false], 0⟩ })
      ∧ transferring.callDevice (.handleTransfer 7 1 [])
        = (.ok [1, 2], { transferring with
            draws := ⟨[], [], [], [false, false], 0⟩, calls := [.handleTransfer 7 1 []] })
      ∧ (({ transferring with draws := ⟨[], [], [.err, .ok []], [], 0⟩ } : State).callDevice (.handleTransfer 7 1 [])).1
        = .err
      ∧ (({ transferring with draws := ⟨[], [], [.ok []], [], 0⟩ } : State).callDevice (.handleTransfer 7 1 [])).1
        = .ok []
      ∧ (transferring.memWrite 0x50000 [1, 2]).1 = true ∧ (transferring.memWrite 0x50003 [1, 2]).1 = false
      ∧ (2 : Nat) < (4 : Word).toNat % 2 ^ 17 ∧ ¬ ((2 : Nat) < (2 : Word).toNat % 2 ^ 17) := by decide

/-- The answers of SetupStatusAndNoOpRules. -/
theorem witness_SetupStatusAndNoOpRules :
    (transferring.callDevice (.handleControl 7 [])).1 = .ok [1, 2]
      ∧ (({ transferring with draws := ⟨[], [], [.err], [], 0⟩ } : State).callDevice (.handleControl 7 [])).1 = .err := by
  decide

/-- DIR = 0 and DIR = 1; a write that succeeds and one that fails. -/
theorem witness_DataStageRule :
    (0x0C01 : Word).getLsbD 16 = false ∧ (0x10C01 : Word).getLsbD 16 = true
      ∧ (answered.memWrite 0x50000 [5]).1 = true ∧ (answered.memWrite 0x60000 [5]).1 = false := by decide

/-- An uninitialised, an empty and a full ring; an absent slot; endpoints 0 and 3. -/
theorem witness_QueueOperations :
    bare.cmdRing.init = false ∧ std.cmdRing.init = true
      ∧ ¬ (std.cmdRing.enq = std.cmdRing.deq ∧ (std.cmdRing.slots.getD std.cmdRing.deq 0).getLsbD 96 = std.cmdRing.ccs)
      ∧ (let r := ((std.cmdRing.queue 0).1.queue 0).1;
        r.init = true ∧ r.enq = r.deq ∧ (r.slots.getD r.deq 0).getLsbD 96 = r.ccs)
      ∧ (withDevice busy).slotAt 2 = none ∧ (withDevice busy).slotAt 1 = some busy
      ∧ ¬ (1 ≤ 0) ∧ ¬ (3 < (withDevice busy).cfg.numEp) ∧ 2 < (withDevice busy).cfg.numEp ∧ 2 < busy.rings.length
      ∧ (busy.ring 2).init = false ∧ (busy.ring 1).init = true
      ∧ (let r := (List.replicate 8 (0 : Raw)).foldl (fun r b => (r.queue b).1) (busy.ring 1);
        r.enq = r.deq ∧ (r.slots.getD r.deq 0).getLsbD 96 = r.ccs) := by decide

theorem witness_TransferRingInit :
    (withDevice busy).slotAt 0 = none ∧ (withDevice busy).slotAt 1 = some busy ∧ 1 < (withDevice busy).cfg.numEp
      ∧ (1 : Word) ≠ 0 ∧ (0xFFFFFFFFFFFFFFF0 : Addr) ≠ 0 ∧ (0xFFFFFFFFFFFFFFF0 : Addr).toNat % 16 = 0
      ∧ (8 : Addr).toNat % 16 ≠ 0 := by decide

/-- An event waiting at a segment's end and one before it; none waiting; no segments; an interrupter too many. -/
theorem witness_GuestConsumesEvents :
    (let e := { newEvRing with segs := [⟨0x30000, 2, [tableTrb 0x8401, 0]⟩] };
      e.segs ≠ [] ∧ ((e.seg e.gseg).slots.getD e.gidx 0).getLsbD 96 = e.gccs ∧ e.gidx + 1 ≠ (e.seg e.gseg).size)
      ∧ (let e := { newEvRing with segs := [⟨0x30000, 1, [tableTrb 0x8401]⟩] };
        ((e.seg e.gseg).slots.getD e.gidx 0).getLsbD 96 = e.gccs ∧ e.gidx + 1 = (e.seg e.gseg).size)
      ∧ ((newEvRing.seg 0).slots.getD 0 0).getLsbD 96 ≠ newEvRing.gccs
      ∧ (std.evRing 1).segs = [] ∧ 1 < std.cfg.maxIntrs ∧ std.cfg.maxIntrs ≤ 2 ∧ std.evRings.length = std.cfg.maxIntrs
      ∧ see State.result (exec (.evt 2) std) = some .noEvent := by decide

/-- A port too many, a connected port, no free slot, a free slot 1, and a free slot 2 above a used one. -/
theorem witness_AttachRule :
    std.cfg.maxPorts ≤ 2 ∧ ((withDevice busy).port 0).ccs = true ∧ 1 < std.cfg.maxPorts
      ∧ ((withDevice busy).port 1).ccs = false
      ∧ (let s := { std with slotTab := [none, some busy, some busy] };
        ∀ j < s.cfg.maxSlots + 1, 1 ≤ j → s.slotTab.getD j none ≠ none)
      ∧ std.slotTab.getD 1 none = none ∧ (withDevice busy).slotTab.getD 2 none = none
      ∧ (∀ j < 2, 1 ≤ j → (withDevice busy).slotTab.getD j none ≠ none)
      ∧ (({ withDevice busy with draws := ⟨[], [.full], [], [], 0⟩ } : State).callSpeed 9).1 = .full := by decide

theorem witness_DetachRule : (withDevice busy).slotAt 1 = some busy ∧ (withDevice busy).slotAt 2 = none := by decide

/-- A read and a write that succeed up to the last byte of guest RAM, and ones that reach past it; a listed verdict of
each kind, and none listed; a listed answer of a device, and none listed. -/
theorem witness_OutsideAgents :
    (transferring.memRead 0x50000 4).1 = some [7, 7, 7, 7] ∧ memGet transferring.mem (0x50003 + 1) = none
      ∧ (transferring.memRead 0x50001 4).1 = none ∧ (transferring.memWrite 0x50000 [1, 2, 3, 4]).1 = true
      ∧ (transferring.memWrite 0x50001 [1, 2, 3, 4]).1 = false
      ∧ (∀ k < 4, memGet transferring.mem (0x50000 + BitVec.ofNat 64 k).toNat = [(7 : Byte), 7, 7, 7][k]?)
      ∧ transferring.draws.device = [.ok [1, 2]] ∧ bare.draws.device = [] ∧ bare.draws.speed = []
      ∧ ({ bare with draws := ⟨[], [.super], [], [], 0⟩ } : State).draws.speed = [.super] := by decide

theorem witness_nextVerdict :
    nextVerdict transferring false { transferring with draws := ⟨[], [], [.ok [1, 2]], [false], 0⟩ }
      ∧ nextVerdict { transferring with draws := ⟨[], [], [], [true], 0⟩ } true
        { transferring with draws := ⟨[], [], [], [], 0⟩ }
      ∧ nextVerdict bare (Config.freeMemFault 0) { bare with draws := ⟨[], [], [], [], 1⟩ } :=
  ⟨.inl ⟨[false], rfl, rfl⟩, .inl ⟨[], rfl, rfl⟩, .inr ⟨rfl, rfl, rfl⟩⟩

/-- An access, a host operation, a command TRB, and a transfer TRB whose drain moves in each of the three ways. -/
theorem witness_StepRunsTheDecodedInstruction :
    ({ std with inbox := [r32 0x20] } : State).locked = none
      ∧ (let s := { std with cmdRing := (std.cmdRing.queue 0).1, locked := some ⟨.cmdDrain false, none⟩ };
        s.cmdRing.empty = false)
      ∧ (let d := busy.setRing 1 ((busy.ring 1).queue 0).1;
        let s := { withDevice d with tasks := [⟨.xferDrain 1 1 1 false, none⟩], inbox := [.turn 0] }
        s.slotAt 1 = some d ∧ d.serial = 1 ∧ d.epState 1 = .running ∧ (d.ring 1).empty = false ∧ s.locked = none
          ∧ s.tasks[0]? = some ⟨.xferDrain 1 1 1 false, none⟩) := by decide

/-- A command drain on an empty ring and on one that holds a TRB. -/
theorem witness_CommandDrainEnds :
    (let s := { std with locked := some ⟨.cmdDrain true, none⟩ };
      s.cmdRing.empty = true)
      ∧ (let s := { std with cmdRing := (std.cmdRing.queue 0).1, locked := some ⟨.cmdDrain false, none⟩ };
        s.cmdRing.empty = false ∧ see (fun t => t.result) (step s) = some .posted) := by decide

/-- A state with a device and a drain in progress. -/
def inProgress : State :=
  { withDevice (busy.setDraining 1 true) with tasks := [⟨.xferDrain 1 1 1 false, none⟩], inbox := [.turn 0] }

/-- A split drain whose ring is empty; one whose endpoint is Halted; one whose Device Slot is gone, and one whose place
another has taken; the turn given by the outside and taken by the oldest; an atomic drain that holds the lock, whose end
raises once and leaves a second half to do. -/
theorem witness_SplitDrainEnds :
    (withDevice busy).slotAt 1 = some busy ∧ busy.serial = 1 ∧ (busy.ring 1).empty = true
      ∧ (device .configured 1 .halted .running).epState 1 ≠ .running ∧ std.slotAt 1 = none ∧ busy.serial ≠ 2
      ∧ (let s := { withDevice busy with tasks := [⟨.xferDrain 1 1 1 true, none⟩], inbox := [.turn 0] };
        s.locked = none ∧ s.tasks[0]? = some ⟨.xferDrain 1 1 1 true, none⟩)
      ∧ see (fun t => (t.locked, (t.intr 0).ip, t.tasks))
          (step { withDevice busy with locked := some ⟨.xferDrain 1 1 1 true, some ⟨⟨0x3008, 4, true, 0⟩, 0⟩⟩ })
        = some (none, true, [⟨.idle, some ⟨⟨0x3008, 4, true, 0⟩, 0⟩⟩]) := by decide

/-- A drain of two TRBs on endpoint 1, in slot 1 of the machine with a device. -/
def twoQueued : DeviceSlot := busy.setRing 1 (((busy.ring 1).queue 0).1.queue 0).1

/-- SplitDrainEnds, a drain that moves: atomic with an event ring, so `posted` is set; split without one, so it is not; no
interrupt either time. -/
theorem witness_TransferDrainMoves :
    (withDevice twoQueued).slotAt 1 = some twoQueued ∧ twoQueued.serial = 1 ∧ twoQueued.epState 1 = .running
      ∧ (twoQueued.ring 1).empty = false
      ∧ see (fun t => (t.locked, t.result, (t.intr 0).ip))
          (step { withDevice twoQueued with locked := some ⟨.xferDrain 1 1 1 false, none⟩ })
        = some (some ⟨.xferDrain 1 1 1 true, none⟩, .posted, false)
      ∧ see (fun t => (t.tasks, t.result, (t.intr 0).ip))
          (step { withDevice twoQueued with tasks := [⟨.xferDrain 1 1 1 false, none⟩], evRings := [] })
        = some ([⟨.xferDrain 1 1 1 false, none⟩], .dropped, false) := by decide

/-- RegistersHaveTheirOwnWriters: the transitions of R206, each taken. -/
theorem witness_CommandRingStates :
    see State.cmdState (exec (.crcrLo (.write 0x40)) bare) = some .running
      ∧ see State.cmdState (exec (.crcrLo (.write 2)) std) = some .stopped
      ∧ see State.cmdState (exec (.crcrLo (.write 4)) std) = some .aborted
      ∧ see State.cmdState (exec (.crcrLo (.write 6)) std) = some .aborted
      ∧ see State.cmdState (exec (.db 0 (.write 0)) { std with cmdState := .aborted }) = some .running
      ∧ see State.cmdState (exec (.usbcmd (.write 2)) std) = some .stopped := by decide

theorem witness_hasTurn :
    hasTurn { inProgress with inbox := [.turn 0, .turn 1] } 0 [.turn 1] ∧ hasTurn { inProgress with inbox := [] } 0 [] :=
  ⟨⟨rfl, .inl rfl⟩, ⟨rfl, .inr ⟨rfl, rfl, rfl⟩⟩⟩

/-- Aligned 8-byte reads (RTSOFF and the hole after it; HCCPARAMS1 and DBOFF), a write of CRCR (R83), and a second half
whose turn comes, which the last clause of StepRunsTheDecodedInstruction is about too. -/
theorem witness_EightByteAccessesAreTwoHalves :
    see (fun t => (t.tasks, t.cont)) (step { bare with inbox := [.access ⟨0x18, 8, false, 0⟩] })
        = some ([⟨.idle, some ⟨⟨0x1C, 4, false, 0⟩, 0x2000⟩⟩], none)
      ∧ see State.result (run bare [.access ⟨0x10, 8, false, 0⟩] 1) = some (.value 0x0000300000000081)
      ∧ see (fun t => (t.crcrPtr, t.tasks)) (run bare [.access ⟨0x30, 8, true, 0x0000000500010040⟩] 1)
        = some (0x500010040 / 64, [])
      ∧ see State.result (step { bare with tasks := [⟨.idle, some ⟨⟨0x14, 4, false, 0⟩, 0x81⟩⟩], inbox := [.turn 0] })
        = some (.value 0x0000300000000081) := by decide

/-- A low half that starts a drain: the second half goes with it, atomic or split. -/
theorem witness_EightByteDoorbell :
    see (fun t => (t.locked, t.tasks)) (step { std with inbox := [.access ⟨0x3000, 8, true, 0x200000000⟩] })
        = some (some ⟨.cmdDrain false, some ⟨⟨0x3004, 4, true, 2⟩, 0⟩⟩, [])
      ∧ see (fun t => (t.locked, t.tasks))
          (step { std with
            slotTab := [none, none, some busy]
            inbox := [.access ⟨0x3008, 8, true, 1⟩] })
        = some (none, [⟨.xferDrain 2 1 1 false, some ⟨⟨0x300C, 4, true, 0⟩, 0⟩⟩]) := by decide

theorem witness_CommandDrainTerminates :
    (let s := { std with cmdRing := ((std.cmdRing.queue 0).1.queue 0).1, locked := some ⟨.cmdDrain false, none⟩ };
      s.cmdRing.ok ∧ s.cmdRing.full = true) := by decide

/-- Instructions that answer a next state: a command TRB, a transfer TRB that stores, an attach. -/
theorem witness_next_states :
    isTrb (.noopCommand ⟨0, 0, 0x5C01⟩) = true ∧ isTrb (.malformedTrb 0) = true
      ∧ (see (fun s => s.cmdRing.deq) (exec (.noopCommand ⟨0, 0, 0x5C01⟩) std)) = some 1
      ∧ storedRange (.normal ⟨0x50000, 4, 0x401⟩) transferring = some (0x50000, 2)
      ∧ storedRange (.dataStage ⟨0x50000, 4, 0x10C01⟩) answered = some (0x50000, 1)
      ∧ (see (fun s => s.mem.length) (exec (.normal ⟨0x50000, 4, 0x401⟩) transferring)) = some 4
      ∧ isReset (.usbcmd (.write 2)) = true ∧ isReset (.usbcmd (.write 1)) = false
      ∧ changesPort (.detach 1) = true ∧ changesPort (.iman 0 (.write 1)) = false
      ∧ intrOf (.erdpLo 7 (.write 8)) = some 7 ∧ intrOf (.evt 7) ≠ some 7 := by decide

/-- Entries that stay in the slot table, for SlotStateMachine and EndpointStateMachine. -/
theorem witness_entries :
    (withDevice busy).entry 1 = some busy
      ∧ see (fun s => (s.entry 1).isSome)
        (exec (.resetDevice ⟨0, 0, 0x01004401⟩) (withDevice busy)) = some true := by decide

theorem witness_InterruptLevels :
    0 < std.intrs.length ∧ 1 < std.intrs.length ∧ (3 : Word).getLsbD 1 = true
      ∧ (see (fun s => s.irq 0) (exec (.usbcmd (.write 3)) std)) = some false := by decide

/-- The invariants hold of a state with a device and a drain in progress, and its next step answers a next state. -/
theorem witness_shape : inProgress.Shape :=
  ⟨by decide, by decide, by decide, by decide, by decide, by decide, by decide, by decide, by decide, by decide,
    by decide, by decide⟩

theorem witness_invariants :
    inProgress.MemoryOk ∧ inProgress.AddressesOk ∧ inProgress.RunOk ∧ inProgress.OnlyInterrupterZero
      ∧ inProgress.AccessesOk := by decide

theorem witness_ports : inProgress.PortsOk ∧ (see (fun s => s.tasks) (step inProgress)) = some [] := by decide

/-- Configurations that R11 allows at both ends of its ranges; a state without an access in progress. -/
theorem witness_ConstructionIsSafe :
    small.ok = true
      ∧ ({ Config.hardware with
            maxSlots := 1, maxIntrs := 1, maxPorts := 1, numEp := 2, numAddr := 1, cmdRingSize := 1 } : Config).ok = true
      ∧ State.reset.locked = none ∧ State.reset.tasks = [] ∧ bare.AccessesOk := by decide

end Sys2Proof.Tests
end

section
/-! PROOFS. The decoder undoes the encoder: TRBs by their type, registers by their offset and lane, the other rows by
their form (R110, R118, R171, R172; R82, R87, R250; R16). -/

namespace Sys2Proof.Machine

open Sys2Proof.Claims

/-! ### Encoding and decoding -/

/-- Decoding the bytes of a TRB of a recognised type gives the TRB's row (R171, R172). -/
theorem instrOfRaw_encodeTrb (t : Trb) (h : recognised (trbType t) = true) :
    instrOfRaw (encodeTrb t) = instrOfTrb t := by
  simp [instrOfRaw, decodeTrb, h]

/-- The bytes of a TRB of an unrecognised type are malformed (R171). -/
theorem instrOfRaw_malformed (b : Raw) (h : recognised (trbType (rawWords b)) = false) :
    instrOfRaw b = .malformedTrb b := by
  simp [instrOfRaw, decodeTrb, h]

/-- A TRB constructor is encoded as the bytes of its words (R172). -/
theorem encode_of_words (c : Config) {i : Instr} {t : Trb} (h : i.words = some t) :
    encode c i = .trb (encodeTrb t) := by
  cases i <;> cases h <;> rfl

/-- A TRB constructor that passes its type check has a recognised type and is the row of that type (R118). -/
theorem instrOfTrb_of_wfTrb {i : Instr} {t : Trb} (hw : i.words = some t) (h : i.wfTrb = true) :
    recognised (trbType t) = true ∧ instrOfTrb t = i := by
  cases i <;> cases hw <;>
    (simp only [Instr.wfTrb, Instr.typeCode, Instr.words, beq_iff_eq] at h
     simp [recognised, instrOfTrb, h])

/-- A register constructor is encoded as the access that reaches its register and lane (R82, R87). -/
theorem encode_of_register (c : Config) {i : Instr} {r : Reg} {a : Access} (h : i.register = some (r, a)) :
    encode c i = .access (toMmio (r.offset c) a) := by
  cases i
  case portliPorthlpmc p hlpmc a => cases hlpmc <;> cases h <;> rfl
  all_goals cases h <;> rfl

/-- A register constructor is the row of its register (R250). -/
theorem instrOfReg_of_register {i : Instr} {r : Reg} {a : Access} (h : i.register = some (r, a)) :
    instrOfReg r a = i := by
  cases i
  case portliPorthlpmc p hlpmc a => cases hlpmc <;> cases h <;> rfl
  all_goals cases h <;> rfl

/-! ### The address map at a sound configuration -/

/-- The bounds R11 and the address map put on the banks: each is aligned and holds its registers (R87; log 26). -/
theorem config_ok_banks {c : Config} (h : c.ok = true) :
    (0x1C ≤ c.capLength ∧ c.capLength % 4 = 0) ∧ (c.rtsOff % 4 = 0 ∧ c.capLength + 0x400 + 0x10 * c.maxPorts ≤ c.rtsOff)
      ∧ (c.dbOff % 4 = 0 ∧ c.rtsOff + 0x20 + 0x20 * c.maxIntrs ≤ c.dbOff)
      ∧ c.dbOff + 4 * (c.maxSlots + 1) ≤ c.mmioSize := by
  simp only [Config.ok, Bool.and_eq_true, decide_eq_true_eq] at h
  omega

/-- Inside the Operational bank the map is the bank's own (R250). -/
theorem regAt_operational {c : Config} (h : c.ok = true) {x : Nat} (hx : x < 0x400 + 0x10 * c.maxPorts) :
    regAt c (c.capLength + x) = opRegAt c x := by
  have hb := config_ok_banks h
  rw [regAt, if_neg (by omega), if_pos (by omega), Nat.add_sub_cancel_left]

/-- Inside the Runtime bank the map is the bank's own (R250). -/
theorem regAt_runtime {c : Config} (h : c.ok = true) {x : Nat} (hx : x < 0x20 + 0x20 * c.maxIntrs) :
    regAt c (c.rtsOff + x) = rtRegAt c x := by
  have hb := config_ok_banks h
  rw [regAt, if_neg (by omega), if_neg (by omega), if_pos (by omega), Nat.add_sub_cancel_left]

/-- Inside the Doorbell bank stands one doorbell per slot id (R250). -/
theorem regAt_doorbell {c : Config} (h : c.ok = true) {i : Nat} (hi : i ≤ c.maxSlots) :
    regAt c (c.dbOff + 4 * i) = some (.db i) := by
  have hb := config_ok_banks h
  rw [regAt, if_neg (by omega), if_neg (by omega), if_neg (by omega), Nat.add_sub_cancel_left,
    Nat.mul_div_cancel_left _ (by omega), if_pos (by omega)]

/-- The register set of port p stands at 0x400 + 0x10*p of the Operational bank (R35). -/
theorem opRegAt_port {c : Config} {p q : Nat} (hp : p < c.maxPorts) (hq : q < 0x10) :
    opRegAt c (0x400 + 0x10 * p + q) = portRegAt p q := by
  have hdiv : (0x400 + 0x10 * p + q - 0x400) / 0x10 = p := by omega
  have hmod : (0x400 + 0x10 * p + q - 0x400) % 0x10 = q := by omega
  simp only [opRegAt, hdiv, hmod]
  repeat rw [if_neg (by omega)]
  exact if_pos ⟨by omega, hp⟩

/-- The register set of interrupter n stands at 0x20 + 0x20*n of the Runtime bank (R37). -/
theorem rtRegAt_intr {c : Config} {n q : Nat} (hn : n < c.maxIntrs) (hq : q < 0x20) :
    rtRegAt c (0x20 + 0x20 * n + q) = intrRegAt n q := by
  have hdiv : (0x20 + 0x20 * n + q - 0x20) / 0x20 = n := by omega
  have hmod : (0x20 + 0x20 * n + q - 0x20) % 0x20 = q := by omega
  rw [rtRegAt, hdiv, hmod, if_neg (by omega), if_pos ⟨by omega, hn⟩]

/-- At offset q of port p's register set stands the port's own register (R35, R87). -/
theorem regAt_port {c : Config} (h : c.ok = true) {p : Nat} (q : Nat) (hp : p < c.maxPorts) (hq : q < 0x10) :
    regAt c (c.capLength + (0x400 + q) + 0x10 * p) = portRegAt p q := by
  rw [show c.capLength + (0x400 + q) + 0x10 * p = c.capLength + (0x400 + 0x10 * p + q) by omega,
    regAt_operational h (by omega), opRegAt_port hp hq]

/-- At offset q of interrupter n's register set stands the interrupter's own register (R37, R87). -/
theorem regAt_intr {c : Config} (h : c.ok = true) {n : Nat} (q : Nat) (hn : n < c.maxIntrs) (hq : q < 0x20) :
    regAt c (c.rtsOff + (0x20 + q) + 0x20 * n) = intrRegAt n q := by
  rw [show c.rtsOff + (0x20 + q) + 0x20 * n = c.rtsOff + (0x20 + 0x20 * n + q) by omega,
    regAt_runtime h (by omega), rtRegAt_intr hn hq]

/-- In the Capability bank the map is the bank's own up to its last register (R250, R252). -/
theorem regAt_capability {c : Config} (h : c.ok = true) {x : Nat} (hx : x < 0x1C) : regAt c x = capRegAt x := by
  have hb := config_ok_banks h
  rw [regAt, if_pos (by omega)]

/-- At the offset of a register that exists stands that register (R87). -/
theorem regAt_offset {c : Config} (h : c.ok = true) (r : Reg) (hr : r.present c = true) :
    regAt c (r.offset c) = some r := by
  cases r
  case caplengthHciversion | hcsparams1 | hcsparams2 | hcsparams3 | hccparams1 | dboff | rtsoff =>
    exact regAt_capability h (by simp only [Reg.offset]; omega)
  case usbcmd | usbsts | pagesize | dnctrl | crcrLo | crcrHi | dcbaapLo | dcbaapHi | config =>
    exact regAt_operational h (by omega)
  case portsc p => exact regAt_port h 0x0 (of_decide_eq_true hr) (by decide)
  case portpmsc p => exact regAt_port h 0x4 (of_decide_eq_true hr) (by decide)
  case portli p => exact regAt_port h 0x8 (of_decide_eq_true hr) (by decide)
  case porthlpmc p => exact regAt_port h 0xC (of_decide_eq_true hr) (by decide)
  case mfindex => exact regAt_runtime h (x := 0) (by omega)
  case iman n => exact regAt_intr h 0x00 (of_decide_eq_true hr) (by decide)
  case imod n => exact regAt_intr h 0x04 (of_decide_eq_true hr) (by decide)
  case erstsz n => exact regAt_intr h 0x08 (of_decide_eq_true hr) (by decide)
  case erstbaLo n => exact regAt_intr h 0x10 (of_decide_eq_true hr) (by decide)
  case erstbaHi n => exact regAt_intr h 0x14 (of_decide_eq_true hr) (by decide)
  case erdpLo n => exact regAt_intr h 0x18 (of_decide_eq_true hr) (by decide)
  case erdpHi n => exact regAt_intr h 0x1C (of_decide_eq_true hr) (by decide)
  case db i => exact regAt_doorbell h (of_decide_eq_true hr)

/-- Every register stands at a multiple of 4 (R87). -/
theorem offset_aligned {c : Config} (h : c.ok = true) (r : Reg) : r.offset c % 4 = 0 := by
  have hb := config_ok_banks h
  cases r <;> simp only [Reg.offset] <;> omega

/-- An access made to reach a lane of the aligned word at off lies in that word (R82). -/
theorem toMmio_word {off : Nat} (h : off % 4 = 0) (a : Access) :
    (toMmio off a).off - (toMmio off a).off % 4 = off := by
  rcases a with lane | v | lane
  · rcases lane with _ | k | k <;> simp only [toMmio] <;> omega
  · simp only [toMmio]; omega
  · rcases lane with _ | k | k <;> simp only [toMmio] <;> omega

/-- A 32-bit value is the low half of itself as a 64-bit one (R82). -/
theorem field_setWidth_low (v : Word) : field (v.setWidth 64) 0 32 = v := by
  rw [field, BitVec.extractLsb'_setWidth_of_le (by omega), BitVec.extractLsb'_eq_self]

/-- An access made to reach a lane is read as an access of that lane (R82). -/
theorem accessOf_toMmio {off : Nat} (h : off % 4 = 0) (a : Access) (ha : a.wf = true) :
    accessOf (toMmio off a) = some a := by
  have half : ∀ k : Fin 2, (off + 2 * k.val) % 2 = 0 ∧ (off + 2 * k.val) % 4 / 2 = k.val := by omega
  have byte : ∀ k : Fin 4, (off + k.val) % 4 = k.val := by omega
  rcases a with lane | v | lane
  · rcases lane with _ | k | k <;> simp [toMmio, accessOf, h, half, byte]
  · simp [toMmio, accessOf, h, field_setWidth_low]
  · rcases lane with _ | k | k
    · cases ha
    · simp [toMmio, accessOf, half]
    · simp [toMmio, accessOf, byte]

/-- An access made to reach a register that exists reaches it (R82, R84, R87). -/
theorem regOf_toMmio {c : Config} (h : c.ok = true) (r : Reg) (a : Access) (hr : r.present c = true)
    (ha : a.wf = true) : regOf c (toMmio (r.offset c) a) = some (r, a) := by
  have h4 := offset_aligned h r
  simp [regOf, accessOf_toMmio h4 a ha, toMmio_word h4, regAt_offset h r hr]

/-- The rows that are neither a recognised TRB nor a register decode to themselves (R16, R171, R250). -/
theorem decode_encode_rest (c : Config) {i : Instr} (hw : i.words = none) (hr : i.register = none)
    (h : i.wfRest c = true) : decode c (encode c i) = i := by
  cases i
  case malformedTrb b => exact instrOfRaw_malformed b (by simpa [Instr.wfRest] using h)
  case outOfRange a =>
    have hn : regOf c a = none := by simpa [Instr.wfRest] using h
    simp [encode, decode, instrOfAccess, hn]
  case cmd | xfer | xinit | evt | attach | detach => rfl
  all_goals simp [Instr.words, Instr.register] at hw hr

/-- Settles O1: a TRB by its type, a register by its offset and lane, and the other rows each by its own form. -/
theorem encodeThenDecodeIsIdentity : Obligations.EncodeThenDecodeIsIdentity := by
  intro c i hc h
  simp only [Instr.wf, Bool.and_eq_true] at h
  obtain ⟨⟨hTrb, hReg⟩, hRest⟩ := h
  match hw : i.words, hr : i.register with
  | some t, _ =>
    obtain ⟨hrec, hi⟩ := instrOfTrb_of_wfTrb hw hTrb
    rw [encode_of_words c hw, decode, instrOfRaw_encodeTrb t hrec, hi]
  | none, some (r, a) =>
    have hp : r.present c = true ∧ a.wf = true := by simpa [Instr.wfReg, hr] using hReg
    rw [encode_of_register c hr, decode, instrOfAccess, regOf_toMmio hc r a hp.1 hp.2]
    exact instrOfReg_of_register hr
  | none, none => exact decode_encode_rest c hw hr hRest

end Sys2Proof.Machine
end

section
/-! PROOFS. Dequeue pointers: the search of an event ring's segments (R222), the range check of a transfer ring (R233), and
what a command that names an endpoint leaves (R320, R339). -/

namespace Sys2Proof.Machine

open Sys2Proof.Claims

/-! ### Dequeue pointers -/

/-- The range check is the rule's two comparisons (R222, R233; log 18). -/
theorem inRange_iff (base ptr : Addr) (size : Nat) :
    inRange base size ptr = true ↔ base ≤ ptr ∧ ptr < base + BitVec.ofNat 64 (16 * size) := by
  simp [inRange]

/-- The search of R222 answers the first segment that holds the pointer, and the slot in it. -/
theorem segSearch_first (ptr : Addr) (gs : List Segment) (start k : Nat) (hk : k < gs.length)
    (hin : inRange gs[k].base gs[k].size ptr = true)
    (hfirst : ∀ j, ∀ hj : j < k, ¬ inRange gs[j].base gs[j].size ptr = true) :
    segSearch ptr gs start = some (start + k, (ptr - gs[k].base).toNat / 16) := by
  induction gs generalizing start k with
  | nil => simp at hk
  | cons g gs ih =>
    cases k with
    | zero => exact if_pos hin
    | succ k =>
      have hhead : ¬ inRange g.base g.size ptr = true := hfirst 0 (by omega)
      rw [segSearch, if_neg hhead, ih (start + 1) k (by simpa using hk) hin (fun j hj => hfirst (j + 1) (by omega))]
      simp [Nat.add_comm, Nat.add_left_comm]

/-- The search of R222 answers nothing for a pointer in no segment. -/
theorem segSearch_miss (ptr : Addr) (gs : List Segment) (start : Nat)
    (h : ∀ g ∈ gs, ¬ inRange g.base g.size ptr = true) : segSearch ptr gs start = none := by
  match hs : segSearch ptr gs start with
  | none => rfl
  | some (s, i) =>
    obtain ⟨j, hj, -, hin, -⟩ := segSearch_spec ptr gs start s i hs
    exact absurd hin (h _ (List.getElem_mem hj))

/-- Settles O10: the search finds the first segment that holds the pointer, or none. -/
theorem eventDequeuePointerSearch : Obligations.EventDequeuePointerSearch := by
  intro e ptr
  simp only [← inRange_iff]
  constructor
  · intro k hk hle hlt hfirst
    have hin := (inRange_iff _ ptr _).2 ⟨hle, hlt⟩
    simp only [EventRing.setDequeuePtr, segSearch_first ptr e.segs 0 k hk hin hfirst,
      BitVec.toNat_sub_of_le hle, Nat.zero_add]
  · intro h
    simp only [EventRing.setDequeuePtr, segSearch_miss ptr e.segs 0 h]

/-! ### Commands on the command ring -/

/-- Concatenation as arithmetic (R13). -/
theorem toNat_append_eq {n m : Nat} (x : BitVec n) (y : BitVec m) : (x ++ y).toNat = x.toNat * 2 ^ m + y.toNat := by
  rw [BitVec.toNat_append, ← Nat.shiftLeft_add_eq_or_of_lt y.isLt, Nat.shiftLeft_eq]

/-- A completion event as R117 writes it out. -/
theorem createCompletionEvent_eq (a : Addr) (slot code : BitVec 8) (extra : BitVec 24) :
    createCompletionEvent a slot code extra = completionTrb a slot.toNat code.toNat extra.toNat := by
  have hs := slot.isLt
  have hc := code.isLt
  have hx := extra.isLt
  simp only [createCompletionEvent, completionTrb, eventStatus, w32, Trb.mk.injEq, true_and]
  constructor <;> apply BitVec.eq_of_toNat_eq <;>
    simp only [toNat_append_eq, BitVec.toNat_ofNat] <;> omega

/-- A TRB on the command ring: the cursor moves, the command has its effect, and its completion is posted (R320). -/
theorem runTrb_afterCommand (s : State) (f : State → State × CmdResult)
    (g : Nat → Nat → DeviceSlot → State → State × XferResult) (h : s.unit = .command) :
    s.runTrb f g = .next (afterCommand s (f (pastCommand s)).1 (f (pastCommand s)).2.slot.toNat
      (f (pastCommand s)).2.code.toNat (f (pastCommand s)).2.extra.toNat) := by
  unfold State.runTrb
  split
  · simp only [State.complete, createCompletionEvent_eq]
    rfl
  · next hu =>
    rw [h] at hu
    cases hu

/-- Moving the command ring's cursor leaves the slot table. -/
@[simp] theorem pastCommand_slotAt (s : State) (sid : Nat) : (pastCommand s).slotAt sid = s.slotAt sid := rfl

/-- Moving the command ring's cursor leaves the range of endpoint ids. -/
@[simp] theorem pastCommand_epOk (s : State) (e : Nat) : (pastCommand s).epOk e = s.epOk e := rfl

/-- The Slot ID of a TRB as a number (R180). -/
theorem slotId_toNat (t : Trb) : (slotId t).toNat = t.control.toNat / 2 ^ 24 := by
  have := t.control.isLt
  simp only [slotId, field, BitVec.extractLsb'_toNat, Nat.shiftRight_eq_div_pow]
  omega

/-- The Endpoint ID of a TRB as a number (R180). -/
theorem endpointId_toNat (t : Trb) : (endpointId t).toNat = t.control.toNat / 2 ^ 16 % 32 := by
  simp [endpointId, field, BitVec.extractLsb'_toNat, Nat.shiftRight_eq_div_pow]

/-- What a command that names an endpoint of a present slot leaves: TRB Error for an id outside the range, else Success
with the slot it makes (R333, R336, R339). -/
theorem runTrb_endpointCommand (s : State) (t : Trb) (d : DeviceSlot) (f : Nat → DeviceSlot → DeviceSlot)
    (g : Nat → Nat → DeviceSlot → State → State × XferResult) (hu : s.unit = .command)
    (hd : s.slotAt (t.control.toNat / 2 ^ 24) = some d) :
    s.runTrb (slotCommand t (endpointCommand t f)) g
      = .next (if s.epOk (t.control.toNat / 2 ^ 16 % 32) then
          afterCommand s ((pastCommand s).setSlot (t.control.toNat / 2 ^ 24)
            (some (f (t.control.toNat / 2 ^ 16 % 32) d))) (t.control.toNat / 2 ^ 24) 1 0
        else afterCommand s (pastCommand s) (t.control.toNat / 2 ^ 24) 5 0) := by
  simp only [runTrb_afterCommand s _ _ hu, slotCommand, slotId_toNat, pastCommand_slotAt, hd, endpointCommand,
    endpointId_toNat, pastCommand_epOk]
  split_ifs <;> simp [ccSuccess, ccTrbError]

/-- The pointer bits 63:4 of a parameter, as an address (R163, R339). -/
theorem ptr4_field (p : Addr) : ptr4 (field p 4 60) = BitVec.ofNat 64 (p.toNat / 16 * 16) := by
  have := p.isLt
  apply BitVec.eq_of_toNat_eq
  simp only [ptr4, field, toNat_append_eq, BitVec.extractLsb'_toNat, BitVec.toNat_ofNat, Nat.shiftRight_eq_div_pow]
  omega

/-- A dequeue pointer inside an initialised ring moves its consumer (R233). -/
theorem setDequeuePtr_inside (r : Ring) (ptr : Addr) (cycle : Bool)
    (h : r.init = true ∧ r.base ≤ ptr ∧ ptr < r.base + BitVec.ofNat 64 (16 * r.size)) :
    r.setDequeuePtr ptr cycle = { r with deq := (ptr.toNat - r.base.toNat) / 16, ccs := cycle } := by
  obtain ⟨hi, hr⟩ := h
  simp [Ring.setDequeuePtr, hi, (inRange_iff _ _ _).2 hr, BitVec.toNat_sub_of_le hr.1]

/-- A dequeue pointer outside the ring, or of an uninitialised one, changes nothing (R233). -/
theorem setDequeuePtr_outside (r : Ring) (ptr : Addr) (cycle : Bool)
    (h : ¬ (r.init = true ∧ r.base ≤ ptr ∧ ptr < r.base + BitVec.ofNat 64 (16 * r.size))) :
    r.setDequeuePtr ptr cycle = r := by
  rw [← inRange_iff, ← Bool.and_eq_true] at h
  exact if_neg h

/-- Putting back the ring an endpoint has changes nothing. -/
theorem setRing_ring (d : DeviceSlot) (e : Nat) (h : e < d.rings.length) : d.setRing e (d.ring e) = d := by
  simp [DeviceSlot.setRing, DeviceSlot.ring, h]

/-- The endpoint ids in range (R374, C2). -/
theorem epOk_iff (s : State) (e : Nat) : s.epOk e = true ↔ 1 ≤ e ∧ e < s.cfg.numEp := by
  simp [State.epOk]

/-- Settles O31: by the endpoint id, then by whether the ring holds the pointer. -/
theorem setTrDequeuePointerRule : Obligations.SetTrDequeuePointerRule := by
  intro s t d hu hd sid e r ptr
  have hexec : exec (.setTrDequeuePointer t) s = _ :=
    runTrb_endpointCommand s t d (setTrDequeuePointer t) transferTrbError hu hd
  have hptr : ptr4 (field t.parameter 4 60) = ptr := ptr4_field _
  rw [hexec, ← epOk_iff]
  refine ⟨fun he => by rw [if_neg he], fun he => ?_⟩
  rw [if_pos he]
  simp only [setTrDequeuePointer, hptr]
  constructor
  · intro hin
    rw [setDequeuePtr_inside _ _ _ hin]
    rfl
  · intro hout hlen
    rw [setDequeuePtr_outside _ _ _ hout, setRing_ring _ _ hlen]

end Sys2Proof.Machine
end

section
/-! PROOFS. The outside agents' answers (R14, R96, R370), and the instruction a step fetches (R90, R320, R374, R380). -/

namespace Sys2Proof.Machine

open Sys2Proof.Claims

/-! ### The outside agents -/

/-- The verdict that is used up, in the statement's own words, is the one drawn (R96; log 9, 11). -/
theorem drawMemFault_of_nextVerdict {s s' : State} {fails : Bool} (h : nextVerdict s fails s') :
    s.drawMemFault = (fails, s') := by
  rcases h with ⟨r, hd, rfl⟩ | ⟨hd, rfl, rfl⟩ <;> simp [State.drawMemFault, hd]

/-- A read whose next verdict is MemFault fails (R96). -/
theorem memRead_of_fault {s s' : State} (h : s.drawMemFault = (true, s')) (a : Addr) (n : Nat) :
    s.memRead a n = (none, s') := by
  simp [State.memRead, h]

/-- A read whose next verdict is not MemFault answers the listed bytes (R96). -/
theorem memRead_of_ok {s s' : State} (h : s.drawMemFault = (false, s')) (a : Addr) (n : Nat) :
    s.memRead a n = (memGetN s.mem a n, s') := by
  simp [State.memRead, h]

/-- A write whose next verdict is MemFault fails and stores nothing (R96; log 10). -/
theorem memWrite_of_fault {s s' : State} (h : s.drawMemFault = (true, s')) (a : Addr) (bs : List Byte) :
    s.memWrite a bs = (false, s') := by
  simp [State.memWrite, h]

/-- A write whose next verdict is not MemFault stores its bytes where all of them are listed (R96). -/
theorem memWrite_of_ok {s s' : State} (h : s.drawMemFault = (false, s')) (a : Addr) (bs : List Byte) :
    s.memWrite a bs =
      if (memGetN s.mem a bs.length).isSome then (true, { s' with mem := memPutN s.mem a bs }) else (false, s') := by
  simp [State.memWrite, h]

/-- The address of the byte after the k-th one, counted from the next address. -/
theorem addr_succ (a : Addr) (k : Nat) : a + BitVec.ofNat 64 (k + 1) = a + 1 + BitVec.ofNat 64 k := by
  rw [Nat.add_comm k 1, BitVec.ofNat_add, BitVec.add_assoc]
  rfl

/-- A read of bytes that are all listed answers some bytes (R96). -/
theorem memGetN_isSome (m : List Host.Cell) (n : Nat) (a : Addr)
    (h : ∀ k < n, memGet m (a + BitVec.ofNat 64 k).toNat ≠ none) : (memGetN m a n).isSome = true := by
  induction n generalizing a with
  | zero => rfl
  | succ n ih =>
    obtain ⟨b, hb⟩ := Option.ne_none_iff_exists'.1 (h 0 (by omega))
    obtain ⟨bs, hbs⟩ := Option.isSome_iff_exists.1
      (ih (a + 1) (fun k hk => addr_succ a k ▸ h (k + 1) (by omega)))
    have hb' : memGet m a.toNat = some b := by simpa using hb
    rw [memGetN, hb', hbs]
    rfl

/-- A read of listed bytes answers exactly them (R96). -/
theorem memGetN_of_bytes (m : List Host.Cell) (a : Addr) (bs : List Byte)
    (h : ∀ k < bs.length, memGet m (a + BitVec.ofNat 64 k).toNat = bs[k]?) : memGetN m a bs.length = some bs := by
  have hs := memGetN_isSome m bs.length a (fun k hk => by rw [h k hk]; simp [hk])
  obtain ⟨bs', hb⟩ := Option.isSome_iff_exists.1 hs
  obtain ⟨hlen, hbytes⟩ := memGetN_spec m _ a bs' hb
  have heq : bs' = bs := by
    apply List.ext_getElem?
    intro k
    by_cases hk : k < bs.length
    · rw [← hbytes k hk, h k hk]
    · rw [List.getElem?_eq_none (by omega), List.getElem?_eq_none (by omega)]
  rw [hb, heq]

/-- What a read answers and leaves (R14, R96). -/
theorem memRead_outcome (s : State) (a : Addr) (n : Nat) (r : Option (List Byte)) (s1 : State)
    (h : s.memRead a n = (r, s1)) :
    (∃ d, s1 = { s with draws := d })
      ∧ (∀ bs, r = some bs → bs.length = n ∧ ∀ k < n, memGet s.mem (a + BitVec.ofNat 64 k).toNat = bs[k]?)
      ∧ ((∃ k < n, memGet s.mem (a + BitVec.ofNat 64 k).toNat = none) → r = none) := by
  obtain ⟨d, hstate, hres⟩ := memRead_spec s a n
  rw [h] at hstate hres
  refine ⟨⟨d, hstate⟩, ?_, ?_⟩
  · rintro bs rfl
    rcases hres with hres | hres
    · cases hres
    · exact memGetN_spec s.mem n a bs hres.symm
  · rintro ⟨k, hk, hnone⟩
    rcases hres with hres | hres
    · exact hres
    · exact hres.trans (memGetN_none s.mem n a k hk hnone)

/-- A write that reaches an unlisted byte fails (R96). -/
theorem memWrite_unlisted (s : State) (a : Addr) (bs : List Byte)
    (h : ∃ k < bs.length, memGet s.mem (a + BitVec.ofNat 64 k).toNat = none) : (s.memWrite a bs).1 = false := by
  obtain ⟨k, hk, hnone⟩ := h
  rcases hd : s.drawMemFault with ⟨_ | _, s'⟩
  · rw [memWrite_of_ok hd, memGetN_none s.mem _ a k hk hnone]
    rfl
  · rw [memWrite_of_fault hd]

/-- What a write answers and leaves (R14, R96; log 10). -/
theorem memWrite_outcome (s : State) (a : Addr) (bs : List Byte) (ok : Bool) (s1 : State)
    (h : s.memWrite a bs = (ok, s1)) :
    (∃ d m, s1 = { s with draws := d, mem := m })
      ∧ (ok = false → s1.mem = s.mem)
      ∧ (ok = true → bs.length ≤ 2 ^ 64 → ∀ k < bs.length, memGet s1.mem (a + BitVec.ofNat 64 k).toNat = bs[k]?)
      ∧ (∀ x, (∀ k < bs.length, x ≠ (a + BitVec.ofNat 64 k).toNat) → memGet s1.mem x = memGet s.mem x)
      ∧ ((∃ k < bs.length, memGet s.mem (a + BitVec.ofNat 64 k).toNat = none) → ok = false) := by
  have hunlisted := memWrite_unlisted s a bs
  rw [h] at hunlisted
  obtain ⟨d, hw | hw⟩ := memWrite_spec s a bs <;> rw [hw] at h <;> cases h
  · exact ⟨⟨d, _, rfl⟩, nofun, fun _ hlen k hk => memGet_memPutN_inside bs s.mem a k hk hlen,
      fun x hx => memGet_memPutN_outside bs s.mem a x hx, hunlisted⟩
  · exact ⟨⟨d, s.mem, rfl⟩, fun _ => rfl, nofun, fun _ _ => rfl, hunlisted⟩

/-- A device call answers, and uses up, the oldest answer listed (R370; log 11). -/
theorem callDevice_listed (s : State) (c : DevCall) (ans : DevAnswer) (r : List DevAnswer)
    (h : s.draws.device = ans :: r) :
    s.callDevice c = (ans, { s with calls := s.calls ++ [c], draws := { s.draws with device := r } }) := by
  simp [State.callDevice, h]

/-- A device call with no answer listed answers a free value (R370; log 11). -/
theorem callDevice_free (s : State) (c : DevCall) (h : s.draws.device = []) :
    s.callDevice c = (Config.freeDevAnswer s.draws.count,
      { s with calls := s.calls ++ [c], draws := { s.draws with count := s.draws.count + 1 } }) := by
  simp [State.callDevice, h]

/-- A call of `speed()` answers, and uses up, the oldest answer listed (R370; log 11). -/
theorem callSpeed_listed (s : State) (dev : Nat) (sp : Speed) (r : List Speed) (h : s.draws.speed = sp :: r) :
    s.callSpeed dev = (sp, { s with calls := s.calls ++ [.speed dev], draws := { s.draws with speed := r } }) := by
  simp [State.callSpeed, h]

/-- A call of `speed()` with no answer listed answers a free value (R370; log 11). -/
theorem callSpeed_free (s : State) (dev : Nat) (h : s.draws.speed = []) :
    s.callSpeed dev = (Config.freeSpeed s.draws.count,
      { s with calls := s.calls ++ [.speed dev], draws := { s.draws with count := s.draws.count + 1 } }) := by
  simp [State.callSpeed, h]

/-- Settles O42: the outcome of each access and call, then what each coming answer makes of it. -/
theorem outsideAgents : Obligations.OutsideAgents := by
  intro s
  refine ⟨memRead_outcome s, memWrite_outcome s, ?_, ?_, ?_, ?_,
    fun c => ⟨callDevice_listed s c, callDevice_free s c⟩, fun dev => ⟨callSpeed_listed s dev, callSpeed_free s dev⟩⟩
  · intro c ans s1 h
    simpa [h] using callDevice_spec s c
  · intro dev sp s1 h
    simpa [h] using callSpeed_spec s dev
  · intro s' hv
    have hd := drawMemFault_of_nextVerdict hv
    exact ⟨memRead_of_fault hd, memWrite_of_fault hd⟩
  · intro s' hv
    have hd := drawMemFault_of_nextVerdict hv
    refine ⟨fun a bs hbytes => ?_, fun a n ⟨k, hk, hnone⟩ => ?_, fun a bs hlisted => ?_, fun a bs ⟨k, hk, hnone⟩ => ?_⟩
    · rw [memRead_of_ok hd, memGetN_of_bytes s.mem a bs hbytes]
    · rw [memRead_of_ok hd, memGetN_none s.mem n a k hk hnone]
    · exact ⟨_, (memWrite_of_ok hd a bs).trans (if_pos (memGetN_isSome s.mem _ a hlisted))⟩
    · rw [memWrite_of_ok hd, memGetN_none s.mem _ a k hk hnone]
      rfl

/-! ### One step -/

/-- A step runs the instruction it fetches, with `settle` around it (R90). -/
theorem step_of_fetch {s s1 : State} {src : Source} {i : Instr} (h : fetch s = some (src, i, s1)) :
    step s = mapNext (settle src) (exec i s1) := by
  simp [step, stepOf, h]

/-- The next TRB of the command drain is the one at the ring's cursor (R320). -/
theorem nextTrb_cmdDrain {s : State} (p : Bool) (h : s.cmdRing.empty = false) :
    nextTrb s (.cmdDrain p) = some (.command, s.cmdRing.at s.cmdRing.deq) := by
  simp [nextTrb, h]

/-- The next TRB of a transfer drain that goes on is the one at its ring's cursor (R374, R380). -/
theorem nextTrb_xferDrain {s : State} {sid serial e : Nat} {d : DeviceSlot} (p : Bool) (hd : s.slotAt sid = some d)
    (hs : d.serial = serial) (hr : d.epState e = .running) (hne : (d.ring e).empty = false) :
    nextTrb s (.xferDrain sid serial e p) = some (.transfer sid e, (d.ring e).at (d.ring e).deq) := by
  simp [nextTrb, hd, hs, hr, hne]

/-- The drain that holds the lock comes first (R90). -/
theorem fetch_locked {s : State} {t : Task} {u : Consumer} {b : Raw} (hl : s.locked = some t)
    (hn : nextTrb s t.work = some (u, b)) :
    fetch s = some (.locked t, decode s.cfg (.trb b), { s with unit := u }) := by
  unfold fetch
  rw [hl]
  simp only [hn]
  rfl

/-- With the lock free, an access at the head of the inbox is next (log 2). -/
theorem fetch_access {s : State} {a : MmioAccess} {rest : List Input} (hl : s.locked = none)
    (hi : s.inbox = .access a :: rest) :
    fetch s = some (.access, decode s.cfg (.access a),
      { s with inbox := rest, cont := (highHalfOf a).map (fun b => ⟨b, 0⟩) }) := by
  unfold fetch
  rw [hl, hi]
  rfl

/-- With the lock free, a host operation at the head of the inbox is next (log 2). -/
theorem fetch_host {s : State} {op : HostOp} {rest : List Input} (hl : s.locked = none)
    (hi : s.inbox = .host op :: rest) :
    fetch s = some (.host, decode s.cfg (.host op), { s with inbox := rest }) := by
  unfold fetch
  rw [hl, hi]
  rfl

/-- With the lock free and no input waiting, the oldest access in progress is next (log 3). -/
theorem fetch_oldest {s : State} (hl : s.locked = none) (hi : s.inbox = []) : fetch s = fetchTask s 0 := by
  unfold fetch
  rw [hl, hi]

/-- The access that has its turn is next (R91, R380; log 3). -/
theorem fetch_of_hasTurn {s : State} {k : Nat} {rest : List Input} (h : hasTurn s k rest) :
    fetch s = fetchTask { s with inbox := rest } k := by
  obtain ⟨hl, hi | ⟨hi, rfl, rfl⟩⟩ := h
  · unfold fetch
    rw [hl, hi]
  · rw [fetch_oldest hl hi, ← hi]

/-- A split transfer drain runs its next TRB (R380). -/
theorem fetchTask_xferDrain {s : State} {k sid serial e : Nat} {p : Bool} {h : Option HighHalf} {u : Consumer}
    {b : Raw} (hk : s.tasks[k]? = some ⟨.xferDrain sid serial e p, h⟩)
    (hn : nextTrb s (.xferDrain sid serial e p) = some (u, b)) :
    fetchTask s k = some (.task k ⟨.xferDrain sid serial e p, h⟩, decode s.cfg (.trb b), { s with unit := u }) := by
  unfold fetchTask
  rw [hk]
  simp only [hn]
  rfl

/-- An access with nothing but its second half left makes that access (R82; log 16). -/
theorem fetchTask_idle {s : State} {k : Nat} {h : HighHalf} (hk : s.tasks[k]? = some ⟨.idle, some h⟩) :
    fetchTask s k = some (.high h, decode s.cfg (.access h.access), { s with tasks := s.tasks.eraseIdx k }) := by
  unfold fetchTask
  rw [hk]
  rfl

/-- Settles O43: what the step fetches, by who has the lock and what the inbox holds. -/
theorem stepRunsTheDecodedInstruction : Obligations.StepRunsTheDecodedInstruction := by
  intro s rest
  refine ⟨fun a hl hi => step_of_fetch (fetch_access hl hi), fun op hl hi => step_of_fetch (fetch_host hl hi),
    fun p h hl hne => step_of_fetch (fetch_locked hl (nextTrb_cmdDrain p hne)), ?_, ?_⟩
  · intro sid serial e p h d hd hs hr hne
    have hn := nextTrb_xferDrain p hd hs hr hne
    refine ⟨fun hl => step_of_fetch (fetch_locked hl hn), fun k hl hi hk => ?_, fun hl hi hk => ?_⟩
    · exact step_of_fetch ((fetch_of_hasTurn ⟨hl, .inl hi⟩).trans
        (fetchTask_xferDrain (s := { s with inbox := rest }) hk hn))
    · exact step_of_fetch ((fetch_oldest hl hi).trans (fetchTask_xferDrain hk hn))
  · intro k h hturn hk
    exact step_of_fetch ((fetch_of_hasTurn hturn).trans (fetchTask_idle (s := { s with inbox := rest }) hk))

end Sys2Proof.Machine
end

section
/-! PROOFS. Everything one instruction can do to the state, said once: the effects of the 67 instructions as records of what
they write (R320, R374, R402, R410, and the rules of each register), and that every instruction has one of them. -/

namespace Sys2Proof.Machine

open Sys2Proof.Claims

/-! ### What the shared operations leave -/

/-- The event rings after an event was posted on interrupter 0, or dropped (R221). -/
inductive Posted (es : List EventRing) : List EventRing → Prop where
  | dropped : Posted es es
  | posted {t : Trb} {e : EventRing} (h : (es.getD 0 EventRing.fresh).post t = some e) : Posted es (es.set 0 e)

/-- The interrupters after interrupter 0 was raised, or not (R402, R431). -/
inductive Raised (is : List Interrupter) : List Interrupter → Prop where
  | silent : Raised is is
  | raised : Raised is (is.modify 0 Interrupter.raised)

/-- Guest memory after bytes were stored, or not (R96). -/
inductive Stored (m : List Host.Cell) : List Host.Cell → Prop where
  | nothing : Stored m m
  | bytes (a : Addr) (bs : List Byte) : Stored m (memPutN m a bs)

/-- The address bitmap after address a was freed (R407). -/
def released (c : Config) (used : List Bool) (a : Nat) : List Bool :=
  if 1 ≤ a ∧ a ≤ c.numAddr then used.set a false else used

/-- Event ring n after an ERSTBA write: kept, or made anew from the segments of 16-bit size it read (R283). -/
inductive Loaded (es : List EventRing) (n : Nat) : List EventRing → Prop where
  | kept : Loaded es n es
  | made {gs : List (Addr × Nat)} {e : EventRing} (hs : ∀ g ∈ gs, g.2 < 2 ^ 16)
      (h : EventRing.setSegments gs = some e) : Loaded es n (es.set n e)

/-- The writes of the registers of interrupter n: what each makes of the register set and of the event rings (R281 to
R285). -/
inductive IntrWrite (es : List EventRing) (n : Nat) : Instr → (Interrupter → Interrupter) → List EventRing → Prop where
  | iman (v : Word) : IntrWrite es n (.iman n (.write v)) (fun i => i.writeIman v) es
  | imod (v : Word) : IntrWrite es n (.imod n (.write v)) (fun i => i.writeImod v) es
  | erstsz (v : Word) : IntrWrite es n (.erstsz n (.write v)) (fun i => { i with erstsz := field v 0 16 }) es
  | erstbaLo (v : Word) {es' : List EventRing} (h : Loaded es n es') :
      IntrWrite es n (.erstbaLo n (.write v)) (fun i => { i with erstba := setPtr6Lo i.erstba v }) es'
  | erstbaHi (v : Word) {es' : List EventRing} (h : Loaded es n es') :
      IntrWrite es n (.erstbaHi n (.write v)) (fun i => { i with erstba := setPtr6Hi i.erstba v }) es'
  | erdpLo (v : Word) (p : Addr) :
      IntrWrite es n (.erdpLo n (.write v)) (fun i => i.writeErdpLo v)
        (es.set n ((es.getD n EventRing.fresh).setDequeuePtr p))
  | erdpHi (v : Word) (p : Addr) :
      IntrWrite es n (.erdpHi n (.write v)) (fun i => { i with erdpPtr := setPtr4Hi i.erdpPtr v })
        (es.set n ((es.getD n EventRing.fresh).setDequeuePtr p))

/-! ### What an instruction makes of one Device Slot -/

/-- What a transfer TRB on endpoint e makes of the Device Slot d whose cursor it has moved (R384 to R392). -/
inductive TransferChange (e : Nat) (d : DeviceSlot) : Instr → DeviceSlot → Prop where
  | consumed (i : Instr) : TransferChange e d i d
  | failed {i : Instr} (hi : ∃ x, i = .normal x ∨ i = .setupStage x) : TransferChange e d i (d.setEpState e .error)
  | answered {i : Instr} (hi : ∃ x, i = .setupStage x ∨ i = .dataStage x ∨ i = .statusStage x) (bytes : List Byte) :
      TransferChange e d i { d with ctlResp := bytes }

/-- What a TRB, XFER or XINIT makes of Device Slot d in entry sid, and of the address bitmap (R230, R232, R322 to R342,
R384). The configuration, the unit and the bitmap are those before it. -/
inductive SlotChange (c : Config) (u : Consumer) (used : List Bool) (sid : Nat) (d : DeviceSlot) :
    Instr → DeviceSlot → List Bool → Prop where
  | enable {x : Trb} (h : d.ctx.state = .disabled) :
      SlotChange c u used sid d (.enableSlot x) (d.setState .default) used
  | disable {x : Trb} (h : d.ctx.state ≠ .disabled) :
      SlotChange c u used sid d (.disableSlot x)
        { ((d.setAddress 0).setState .disabled).disableFrom 1 with ctlResp := [] }
        (released c used d.ctx.deviceAddress)
  | address {x : Trb} {a : Nat} (h : d.ctx.state ≠ .addressed ∧ d.ctx.state ≠ .configured)
      (ha : 1 ≤ a ∧ a ≤ c.numAddr) (hfree : used.getD a true = false) :
      SlotChange c u used sid d (.addressDevice x) (((d.setAddress a).setState .addressed).setEpState 1 .running)
        (used.set a true)
  | configure {x : Trb} (h : d.ctx.state = .addressed ∨ d.ctx.state = .configured) :
      SlotChange c u used sid d (.configureEndpoint x) (d.setState .configured).enableEndpoints used
  | resetEndpoint {x : Trb} {e : Nat} (he : 1 ≤ e) :
      SlotChange c u used sid d (.resetEndpoint x) (resetEndpoint e d) used
  | stopEndpoint {x : Trb} {e : Nat} (he : 1 ≤ e) :
      SlotChange c u used sid d (.stopEndpoint x) (stopEndpoint e d) used
  | setDequeue {x : Trb} {e : Nat} (he : 1 ≤ e) :
      SlotChange c u used sid d (.setTrDequeuePointer x) (setTrDequeuePointer x e d) used
  | resetDevice {x : Trb} (h : d.ctx.state ≠ .disabled) :
      SlotChange c u used sid d (.resetDevice x)
        { ((d.setAddress 0).setState .default).disableFrom 2 with ctlResp := [] }
        (released c used d.ctx.deviceAddress)
  | transfer {i : Instr} {e : Nat} {d' : DeviceSlot} (ht : isTrb i = true) (hu : u = .transfer sid e)
      (h : TransferChange e (pastTransfer d e) i d') : SlotChange c u used sid d i d' used
  | xfer {e : Nat} {b : Raw} (he : 1 ≤ e) :
      SlotChange c u used sid d (.xfer sid e b) (d.setRing e ((d.ring e).queue b).1) used
  | xinit {e : Nat} {base : Addr} {size : Word} {r : Ring} (he : 1 ≤ e)
      (h : Ring.initialise base size.toNat = some r) :
      SlotChange c u used sid d (.xinit sid e base size) (d.setRing e r) used

/-! ### What an instruction makes of the state -/

/-- Everything an instruction other than a controller reset can make of state s: each case names the instruction and
lists the fields it writes; every other field is as in s. -/
inductive Effect (s : State) : Instr → State → Prop where
  | quiet (i : Instr) (dr : Draws) (r : Result) : Effect s i { s with draws := dr, result := r }
  | run (v : Word) (rs inte hsee ewe : Bool) (r : Result) :
      Effect s (.usbcmd (.write v))
        { s with usbcmd := ⟨rs, inte, hsee, ewe⟩, ctrl := if rs then .running else .halted, result := r }
  | status (v : Word) (r : Result) : Effect s (.usbsts (.write v)) { s with usbsts := s.usbsts.write v, result := r }
  | dnctrl (v : Word) (x : BitVec 16) (r : Result) : Effect s (.dnctrl (.write v)) { s with dnctrl := x, result := r }
  | dcbaapLo (v : Word) (x : BitVec 58) (r : Result) : Effect s (.dcbaapLo (.write v)) { s with dcbaap := x, result := r }
  | dcbaapHi (v : Word) (x : BitVec 58) (r : Result) : Effect s (.dcbaapHi (.write v)) { s with dcbaap := x, result := r }
  | config (v : Word) (x : BitVec 8) (r : Result) : Effect s (.config (.write v)) { s with maxSlotsEn := x, result := r }
  | crcrStop (v : Word) {es : List EventRing} (hv : v.getLsbD 1 = true ∨ v.getLsbD 2 = true)
      (hrun : s.cmdState = .running) (hp : Posted s.evRings es) (r : Result) :
      Effect s (.crcrLo (.write v))
        { s with cmdState := if v.getLsbD 2 then .aborted else .stopped, evRings := es, result := r }
  | crcrPointer {i : Instr}
      (hi : ∃ v, (i = .crcrLo (.write v) ∧ v.getLsbD 1 = false ∧ v.getLsbD 2 = false) ∨ i = .crcrHi (.write v))
      (x : BitVec 58) (cs : Bool) (r : Result) : Effect s i { s with crcrPtr := x, crcrRcs := cs, result := r }
  | crcrInit {i : Instr}
      (hi : ∃ v, (i = .crcrLo (.write v) ∧ v.getLsbD 1 = false ∧ v.getLsbD 2 = false) ∨ i = .crcrHi (.write v))
      (x : BitVec 58) (cs : Bool) {ring : Ring} (h : Ring.initialise (ptr6 x) s.cfg.cmdRingSize = some ring)
      (r : Result) :
      Effect s i { s with crcrPtr := x, crcrRcs := cs, cmdRing := ring, cmdState := .running, result := r }
  | portsc (p : Nat) (v : Word) (r : Result) :
      Effect s (.portsc p (.write v)) { s with ports := s.ports.modify p (fun q => q.write v), result := r }
  | portReset (p : Nat) (v : Word) {es : List EventRing} {is : List Interrupter} (hp : Posted s.evRings es)
      (hr : Raised s.intrs is) (eint : Bool) (r : Result) :
      Effect s (.portsc p (.write v))
        { s with
          ports := (s.ports.modify p (fun q => q.write v)).modify p Port.reset
          evRings := es
          intrs := is
          usbsts := { s.usbsts with pcd := true, eint := eint }
          result := r }
  | portpmsc (p : Nat) (v : Word) (r : Result) :
      Effect s (.portpmsc p (.write v))
        { s with ports := s.ports.modify p (fun q => { q with portpmsc := v }), result := r }
  | intr {i : Instr} {n : Nat} {f : Interrupter → Interrupter} {es : List EventRing}
      (hw : IntrWrite s.evRings n i f es) (dr : Draws) (r : Result) :
      Effect s i { s with intrs := s.intrs.modify n f, evRings := es, draws := dr, result := r }
  | doorbell (k : Nat) (v : Word) (r : Result) :
      Effect s (.db k (.write v)) { s with db := s.db.set k (field v 0 8), result := r }
  | commandDrain (v : Word) (hctrl : s.ctrl = .running)
      (hring : s.cmdState = .running
        ∨ s.cmdRing.init = true ∧ (s.cmdState = .stopped ∨ s.cmdState = .aborted)) (r : Result) :
      Effect s (.db 0 (.write v))
        { s with
          db := s.db.set 0 (field v 0 8)
          cmdState := .running
          locked := some ⟨.cmdDrain false, s.cont⟩
          cont := none
          result := r }
  | atomicDrain (k : Nat) (v : Word) (serial e : Nat) (r : Result) :
      Effect s (.db k (.write v))
        { s with
          db := s.db.set k (field v 0 8)
          locked := some ⟨.xferDrain k serial e false, s.cont⟩
          cont := none
          result := r }
  | splitDrain (k : Nat) (v : Word) {d : DeviceSlot} (hsplit : s.cfg.atomicTransferDrain = false)
      (hd : s.slotAt k = some d) (r : Result) :
      Effect s (.db k (.write v))
        { s with
          db := s.db.set k (field v 0 8)
          slotTab := s.slotTab.set k (some (d.setDraining (v.toNat % 256) true))
          tasks := s.tasks ++ [⟨.xferDrain k d.serial (v.toNat % 256) false, s.cont⟩]
          cont := none
          result := r }
  | cmd (b : Raw) (r : Result) : Effect s (.cmd b) { s with cmdRing := (s.cmdRing.queue b).1, result := r }
  | hostSlot {i : Instr} {sid : Nat} {d d' : DeviceSlot} (hd : s.slotAt sid = some d)
      (hc : SlotChange s.cfg s.unit s.addrUsed sid d i d' s.addrUsed) (r : Result) :
      Effect s i { s with slotTab := s.slotTab.set sid (some d'), result := r }
  | evt (n : Nat) (r : Result) :
      Effect s (.evt n) { s with evRings := s.evRings.set n (s.evRing n).consume.1, result := r }
  | attach (p dev : Nat) {sid : Nat} (sp : Speed) (hp : p < s.cfg.maxPorts) (hc : (s.port p).ccs = false)
      (hs : 1 ≤ sid ∧ sid ≤ s.cfg.maxSlots ∧ s.entry sid = none) {es : List EventRing} {is : List Interrupter}
      (hpost : Posted s.evRings es) (hr : Raised s.intrs is) (calls : List DevCall) (dr : Draws) (eint : Bool)
      (r : Result) :
      Effect s (.attach p dev)
        { s with
          calls := calls
          draws := dr
          slotTab := s.slotTab.set sid (some (DeviceSlot.create s.cfg p dev (s.serial + 1) sp))
          serial := s.serial + 1
          ports := s.ports.modify p (fun q => q.attach sp sid)
          evRings := es
          intrs := is
          usbsts := { s.usbsts with pcd := true, eint := eint }
          result := r }
  | detach (sid : Nat) {d : DeviceSlot} (hd : s.slotAt sid = some d) {es : List EventRing} {is : List Interrupter}
      (hpost : Posted s.evRings es) (hr : Raised s.intrs is) (eint : Bool) (r : Result) :
      Effect s (.detach sid)
        { s with
          slotTab := s.slotTab.set sid none
          addrUsed := released s.cfg s.addrUsed d.ctx.deviceAddress
          ports := s.ports.modify d.port Port.detach
          evRings := es
          intrs := is
          usbsts := { s.usbsts with pcd := true, eint := eint }
          result := r }
  | command {i : Instr} (ht : isTrb i = true) {es : List EventRing} (hp : Posted s.evRings es) (r : Result) :
      Effect s i { s with cmdRing := s.cmdRing.advance, evRings := es, result := r }
  | slotCommand {i : Instr} (ht : isTrb i = true) {sid : Nat} {d d' : DeviceSlot} {used : List Bool}
      (hd : s.slotAt sid = some d) (hc : SlotChange s.cfg s.unit s.addrUsed sid d i d' used) {es : List EventRing}
      (hp : Posted s.evRings es) (calls : List DevCall) (r : Result) :
      Effect s i
        { s with
          cmdRing := s.cmdRing.advance
          slotTab := s.slotTab.set sid (some d')
          addrUsed := used
          calls := calls
          evRings := es
          result := r }
  | transfer {i : Instr} (ht : isTrb i = true) {sid e : Nat} {d d' : DeviceSlot} (hu : s.unit = .transfer sid e)
      (hd : s.slotAt sid = some d) (hc : TransferChange e (pastTransfer d e) i d') {es : List EventRing}
      (hp : Posted s.evRings es) {m : List Host.Cell} (hm : Stored s.mem m) (dr : Draws) (calls : List DevCall)
      (r : Result) :
      Effect s i
        { s with
          slotTab := s.slotTab.set sid (some d')
          mem := m
          draws := dr
          calls := calls
          evRings := es
          result := r }

end Sys2Proof.Machine
end

section
/-! PROOFS. Every instruction has one of its effects: the shared operations first, then the instructions by their form. -/

namespace Sys2Proof.Machine

open Sys2Proof.Claims

/-! ### Events, interrupts and addresses -/

/-- Posting on interrupter 0 writes its event ring or nothing (R221). -/
theorem postEvent_posted (s : State) (e : Trb) :
    ∃ es, Posted s.evRings es ∧ (s.postEvent 0 e).1 = { s with evRings := es } := by
  rcases postEvent_spec s 0 e with h | ⟨-, r, hr, h⟩
  · exact ⟨_, .dropped, by rw [h]⟩
  · exact ⟨_, .posted hr, by rw [h]; rfl⟩

/-- `port_change(p)` posts, sets PCD, and raises interrupter 0 or not (R402). -/
theorem portChange_effect (s : State) (p : Nat) :
    ∃ es is eint, Posted s.evRings es ∧ Raised s.intrs is
      ∧ s.portChange p
        = { s with evRings := es, intrs := is, usbsts := { s.usbsts with pcd := true, eint := eint } } := by
  obtain ⟨es, hp, hes⟩ :=
    postEvent_posted { s with usbsts := { s.usbsts with pcd := true } } (createPortStatusChangeEvent p)
  simp only [State.portChange, hes]
  split
  · exact ⟨es, _, true, hp, .raised, rfl⟩
  · exact ⟨es, _, s.usbsts.eint, hp, .silent, rfl⟩

/-- Freeing an address changes the bitmap as `released` says (R407). -/
theorem freeAddress_eq (s : State) (a : Nat) :
    s.freeAddress a = { s with addrUsed := released s.cfg s.addrUsed a } := by
  rcases freeAddress_spec s a with ⟨h, e⟩ | ⟨h, e⟩ <;> simp [e, released, h]

/-- Freeing a slot's address is freeing its number: number 0 is none (R324, R403). -/
theorem freeSlotAddress_eq (s : State) (d : DeviceSlot) :
    s.freeSlotAddress d = { s with addrUsed := released s.cfg s.addrUsed d.ctx.deviceAddress } := by
  unfold State.freeSlotAddress
  split
  · exact freeAddress_eq s _
  · next h => simp [released, not_not.1 h]

/-- Putting back a Device Slot that is there changes nothing. -/
theorem setSlot_self {s : State} {sid : Nat} {d : DeviceSlot} (h : s.slotAt sid = some d) :
    s.setSlot sid (some d) = s := by
  obtain ⟨-, -, hd⟩ := (slotAt_spec s sid d).1 h
  obtain ⟨hlt, hget⟩ := List.getElem?_eq_some_iff.1 hd
  simp [State.setSlot, ← hget]

/-! ### Registers -/

/-- An access to a register has no effect, or is a 32-bit write with the register's effect (R82, R85). -/
theorem Effect.register {s t : State} {a : Access} {value : Word} {write : Word → State → State}
    (mk : Access → Instr) (h : accessRegister a value write s = .next t)
    (hw : ∀ v, Effect s (mk (.write v)) { write v s with result := .none }) : Effect s (mk a) t := by
  cases a <;> cases h
  · exact .quiet _ _ _
  · exact hw _
  · exact .quiet _ _ _

/-- A register whose writes are ignored has no effect (R253, R266). -/
theorem Effect.readOnly {s t : State} {a : Access} {value : Word} (i : Instr)
    (h : accessRegister a value ignoreWrite s = .next t) : Effect s i t :=
  Effect.register (fun _ => i) h (fun _ => .quiet _ _ _)

/-- A register of a port: nothing where the port does not exist (R84). -/
theorem Effect.portRegister {s t : State} {p : Nat} {a : Access} {value : Port → Word} {write : Word → State → State}
    (mk : Access → Instr) (h : accessPort p a value write s = .next t)
    (hw : ∀ v, Effect s (mk (.write v)) { write v s with result := .none }) : Effect s (mk a) t := by
  unfold accessPort at h
  split at h
  · exact .register mk h hw
  · exact .readOnly _ h

/-- A register of an interrupter: nothing where the interrupter does not exist (R84). -/
theorem Effect.intrRegister {s t : State} {n : Nat} {a : Access} {value : Interrupter → Word}
    {write : Word → State → State} (mk : Access → Instr) (h : accessIntr n a value write s = .next t)
    (hw : ∀ v, Effect s (mk (.write v)) { write v s with result := .none }) : Effect s (mk a) t := by
  unfold accessIntr at h
  split at h
  · exact .register mk h hw
  · exact .readOnly _ h

/-- The stop or abort of a command ring (R269). -/
theorem stopOrAbort_effect (s : State) (v : Word) (r : Result) (hv : v.getLsbD 1 = true ∨ v.getLsbD 2 = true) :
    Effect s (.crcrLo (.write v)) { stopOrAbort (bit v 2) s with result := r } := by
  unfold stopOrAbort State.complete
  split
  · next hrun =>
    obtain ⟨es, hp, he⟩ := postEvent_posted { s with cmdState := if bit v 2 then .aborted else .stopped }
      (createCompletionEvent (s.cmdRing.addr s.cmdRing.deq) 0 ccCommandRingStopped 0)
    rw [he]
    exact .crcrStop v hv hrun hp r
  · exact .quiet _ _ _

/-- The pointer write of CRCR and the ring initialisation that may follow it (R202, R268). -/
theorem crcrInit_effect (s : State) (i : Instr)
    (hi : ∃ v, (i = .crcrLo (.write v) ∧ v.getLsbD 1 = false ∧ v.getLsbD 2 = false) ∨ i = .crcrHi (.write v))
    (x : BitVec 58) (cs : Bool) (r : Result) :
    Effect s i { crcrInit { s with crcrPtr := x, crcrRcs := cs } with result := r } := by
  unfold crcrInit
  split
  · split
    · next h => exact Effect.crcrInit (s := s) hi x cs h r
    · exact .crcrPointer hi x cs r
  · exact .crcrPointer hi x cs r

/-- A write of the low half of CRCR (R268). -/
theorem writeCrcrLo_effect (s : State) (v : Word) (r : Result) :
    Effect s (.crcrLo (.write v)) { writeCrcrLo v s with result := r } := by
  unfold writeCrcrLo
  split
  · next h => exact stopOrAbort_effect s v r (by simpa [bit] using h)
  · next h =>
    have hbits : v.getLsbD 1 = false ∧ v.getLsbD 2 = false := by simpa [bit] using h
    exact crcrInit_effect s _ ⟨v, .inl ⟨rfl, hbits⟩⟩ _ _ r

/-- A write of the high half of CRCR (R268). -/
theorem writeCrcrHi_effect (s : State) (v : Word) (r : Result) :
    Effect s (.crcrHi (.write v)) { writeCrcrHi v s with result := r } :=
  crcrInit_effect s _ ⟨v, .inr rfl⟩ _ _ r

/-- A write of PORTSC, with the port reset it may ask for (R272, R273). -/
theorem writePortsc_effect (s : State) (p : Nat) (v : Word) (r : Result) :
    Effect s (.portsc p (.write v)) { writePortsc p v s with result := r } := by
  unfold writePortsc portReset
  split
  · obtain ⟨es, is, eint, hp, hr, h⟩ :=
      portChange_effect ((s.modifyPort p (fun q => q.write v)).modifyPort p Port.reset) p
    rw [h]
    exact Effect.portReset (s := s) p v hp hr eint r
  · exact .portsc p v r

/-! ### Interrupters -/

/-- A little-endian number is below the power of its length (R80). -/
theorem leNat_lt (bs : List Byte) : leNat bs < 256 ^ bs.length := by
  induction bs with
  | nil => simp [leNat]
  | cons b bs ih =>
    have := b.isLt
    simp only [leNat, List.length_cons, pow_succ]
    omega

/-- The size an ERST entry gives is a 16-bit number (R283). -/
theorem erstEntry_size (bytes : List Byte) : (erstEntry bytes).2 < 2 ^ 16 := by
  have hlen : ((bytes.drop 8).take 2).length ≤ 2 := List.length_take_le 2 _
  exact (leNat_lt _).trans_le (Nat.pow_le_pow_right (by decide) hlen)

/-- Reading the ERST changes the draws only, and gives segments of 16-bit size (R283). -/
theorem readErst_spec (k : Nat) (a : Addr) (s : State) :
    ∃ dr, (readErst a k s).2 = { s with draws := dr }
      ∧ ∀ gs, (readErst a k s).1 = some gs → ∀ g ∈ gs, g.2 < 2 ^ 16 := by
  induction k generalizing a s with
  | zero => exact ⟨s.draws, rfl, fun gs h => by cases h; simp⟩
  | succ k ih =>
    obtain ⟨d, hd, -⟩ := memRead_spec s a 16
    unfold readErst
    simp only [hd]
    split
    · exact ⟨d, rfl, by simp⟩
    · next bytes _ =>
      obtain ⟨dr, hstate, hsizes⟩ := ih (a + 16) { s with draws := d }
      refine ⟨dr, hstate, fun gs hgs => ?_⟩
      obtain ⟨gs', hgs', rfl⟩ := Option.map_eq_some_iff.1 hgs
      exact List.forall_mem_cons.2 ⟨erstEntry_size bytes, hsizes gs' hgs'⟩

/-- What follows an ERSTBA write changes the draws and may make the event ring anew (R283). -/
theorem loadErst_spec (n : Nat) (s : State) :
    ∃ dr es, Loaded s.evRings n es ∧ loadErst n s = { s with draws := dr, evRings := es } := by
  obtain ⟨dr, hstate, hsizes⟩ := readErst_spec (s.intr n).erstsz.toNat (ptr6 (s.intr n).erstba) s
  unfold loadErst
  simp only [hstate]
  split
  · exact ⟨s.draws, _, .kept, rfl⟩
  · split
    · exact ⟨dr, _, .kept, rfl⟩
    · next gs hgs =>
      split
      · next e he => exact ⟨dr, _, .made (hsizes gs hgs) he, rfl⟩
      · exact ⟨dr, _, .kept, rfl⟩

/-- A write of half of ERSTBA: the half is stored, then the segments are loaded (R283). -/
theorem loadErst_effect (s : State) {n : Nat} {i : Instr} {f : Interrupter → Interrupter} (r : Result)
    (hw : ∀ es, Loaded s.evRings n es → IntrWrite s.evRings n i f es) :
    Effect s i { loadErst n (s.modifyIntr n f) with result := r } := by
  obtain ⟨dr, es, hl, h⟩ := loadErst_spec n (s.modifyIntr n f)
  rw [h]
  exact .intr (hw es hl) dr r

/-! ### Doorbells -/

/-- The target a doorbell write names (R290). -/
theorem field_low8_toNat (v : Word) : (field v 0 8).toNat = v.toNat % 256 := by
  simp [field]

/-- A write of doorbell 0 starts a command drain, or only stores its target (R320, R372). -/
theorem doorbellCommand_effect (s : State) (v : Word) (r : Result) :
    Effect s (.db 0 (.write v)) { doorbellCommand { s with db := s.db.set 0 (field v 0 8) } with result := r } := by
  unfold doorbellCommand startLocked
  by_cases hc : s.ctrl = .running
  · by_cases hs : s.cmdRing.init = true ∧ (s.cmdState = .stopped ∨ s.cmdState = .aborted)
    · simpa [hc, hs] using Effect.commandDrain (s := s) v hc (.inr hs) r
    · by_cases hrun : s.cmdState = .running
      · simpa [hc, hrun] using Effect.commandDrain (s := s) v hc (.inl hrun) r
      · simpa [hc, hs, hrun] using Effect.doorbell (s := s) 0 v r
  · simpa [hc] using Effect.doorbell (s := s) 0 v r

/-- A write of a slot's doorbell starts a transfer drain, or only stores its target (R371, R374, R380). -/
theorem ringEp_effect (s : State) (k : Nat) (v : Word) {d : DeviceSlot} (hd : s.slotAt k = some d) (r : Result) :
    Effect s (.db k (.write v))
      { ringEp k (v.toNat % 256) d { s with db := s.db.set k (field v 0 8) } with result := r } := by
  unfold ringEp startLocked startTask
  split
  · split
    · exact .atomicDrain k v d.serial _ r
    · next hsplit =>
      split
      · exact .doorbell k v r
      · exact .splitDrain k v (by simpa using hsplit) hd r
  · exact .doorbell k v r

/-- A doorbell write (R290, R371). -/
theorem writeDb_effect (s : State) (k : Nat) (v : Word) (r : Result) :
    Effect s (.db k (.write v)) { writeDb k v s with result := r } := by
  unfold writeDb ringDoorbell
  rw [field_low8_toNat]
  split
  · next h => subst h; exact doorbellCommand_effect s v r
  · split
    · exact .doorbell k v r
    · next d hd => exact ringEp_effect s k v hd r

/-! ### The host interface -/

/-- XFER and XINIT name an endpoint from 1 on (R203, R230). -/
theorem one_le_of_epOk {s : State} {e : Nat} (h : s.epOk e = true) : 1 ≤ e := ((epOk_iff s e).1 h).1

theorem execXfer_effect {s t : State} {sid e : Nat} {b : Raw} (h : execXfer sid e b s = .next t) :
    Effect s (.xfer sid e b) t := by
  unfold execXfer at h
  split at h
  · cases h; exact .quiet _ _ _
  · next d hd =>
    split at h
    · next he => cases h; exact .hostSlot hd (.xfer (one_le_of_epOk he)) _
    · cases h; exact .quiet _ _ _

theorem execXinit_effect {s t : State} {sid e : Nat} {base : Addr} {size : Word}
    (h : execXinit sid e base size s = .next t) : Effect s (.xinit sid e base size) t := by
  unfold execXinit at h
  split at h
  · cases h; exact .quiet _ _ _
  · next d hd =>
    split at h
    · next he =>
      split at h
      · next r hr => cases h; exact .hostSlot hd (.xinit (one_le_of_epOk he) hr) _
      · cases h; exact .quiet _ _ _
    · cases h; exact .quiet _ _ _

theorem execEvt_effect {s t : State} {n : Nat} (h : execEvt n s = .next t) : Effect s (.evt n) t := by
  unfold execEvt at h
  split at h
  · cases h; exact .evt n _
  · cases h; exact .quiet _ _ _

/-- The slot an attach takes is a usable one that is empty (R400). -/
theorem freeSlot_spec {s : State} {sid : Nat} (h : s.freeSlot? = some sid) :
    1 ≤ sid ∧ sid ≤ s.cfg.maxSlots ∧ s.entry sid = none := by
  have hmem := List.mem_of_find?_eq_some h
  have hnone := List.find?_some h
  rw [List.mem_range'_1] at hmem
  exact ⟨hmem.1, by omega, Option.isNone_iff_eq_none.1 hnone⟩

theorem execAttach_effect {s t : State} {p dev : Nat} (h : execAttach p dev s = .next t) :
    Effect s (.attach p dev) t := by
  unfold execAttach at h
  split at h
  · cases h; exact .quiet _ _ _
  · next hport =>
    rw [not_or, Nat.not_le, Bool.not_eq_true] at hport
    split at h
    · cases h; exact .quiet _ _ _
    · next sid hs =>
      obtain ⟨dr, hsp⟩ := callSpeed_spec s dev
      simp only [hsp] at h
      obtain ⟨es, is, eint, hp, hr, hpc⟩ := portChange_effect
        { s with
          calls := s.calls ++ [.speed dev]
          draws := dr
          slotTab := s.slotTab.set sid (some (DeviceSlot.create s.cfg p dev (s.serial + 1) (s.callSpeed dev).1))
          serial := s.serial + 1
          ports := s.ports.modify p (fun q => q.attach (s.callSpeed dev).1 sid) } p
      simp only [State.setSlot, State.modifyPort, hpc] at h
      cases h
      exact .attach p dev _ hport.1 hport.2 (freeSlot_spec hs) hp hr _ _ _ _

theorem execDetach_effect {s t : State} {sid : Nat} (h : execDetach sid s = .next t) : Effect s (.detach sid) t := by
  unfold execDetach at h
  split at h
  · cases h; exact .quiet _ _ _
  · next d hd =>
    rw [freeSlotAddress_eq] at h
    obtain ⟨es, is, eint, hp, hr, hpc⟩ := portChange_effect
      ((({ s with addrUsed := released s.cfg s.addrUsed d.ctx.deviceAddress } : State).setSlot sid none).modifyPort
        d.port Port.detach) d.port
    simp only [hpc] at h
    cases h
    exact .detach sid hd hp hr _ _

/-! ### Consumed TRBs -/

/-- What a command's own effect can be: nothing, or a change of one Device Slot (R321). -/
inductive CommandOutcome (s : State) (i : Instr) : State → Prop where
  | unchanged : CommandOutcome s i s
  | slot {sid : Nat} {d d' : DeviceSlot} {used : List Bool} (hd : s.slotAt sid = some d)
      (hc : SlotChange s.cfg s.unit s.addrUsed sid d i d' used) (calls : List DevCall) :
      CommandOutcome s i { s with slotTab := s.slotTab.set sid (some d'), addrUsed := used, calls := calls }

/-- What a transfer TRB's own effect can be: memory, draws and calls, and a change of its Device Slot (R384). -/
inductive TransferOutcome (i : Instr) (sid e : Nat) (d : DeviceSlot) (s : State) : State → Prop where
  | unchanged {m : List Host.Cell} (hm : Stored s.mem m) (dr : Draws) (calls : List DevCall) :
      TransferOutcome i sid e d s { s with mem := m, draws := dr, calls := calls }
  | slot {d' : DeviceSlot} {m : List Host.Cell} (hc : TransferChange e d i d') (hm : Stored s.mem m) (dr : Draws)
      (calls : List DevCall) :
      TransferOutcome i sid e d s
        { s with slotTab := s.slotTab.set sid (some d'), mem := m, draws := dr, calls := calls }

/-- A change of one Device Slot and of nothing else is an outcome. -/
theorem CommandOutcome.setSlot {s : State} {i : Instr} {sid : Nat} {d d' : DeviceSlot} (hd : s.slotAt sid = some d)
    (hc : SlotChange s.cfg s.unit s.addrUsed sid d i d' s.addrUsed) : CommandOutcome s i (s.setSlot sid (some d')) :=
  .slot hd hc s.calls

/-- An outcome after an answer was drawn is an outcome. -/
theorem TransferOutcome.of_draws {i : Instr} {sid e : Nat} {d : DeviceSlot} {s t : State} {dr : Draws}
    (h : TransferOutcome i sid e d { s with draws := dr } t) : TransferOutcome i sid e d s t := by
  cases h with
  | unchanged hm dr calls => exact TransferOutcome.unchanged (s := s) hm dr calls
  | slot hc hm dr calls => exact TransferOutcome.slot (s := s) hc hm dr calls

/-- A command's state once its completion is posted (R214). -/
theorem afterCommand_posted (s s1 : State) (slot code extra : Nat) :
    ∃ es r, Posted s1.evRings es ∧ afterCommand s s1 slot code extra = { s1 with evRings := es, result := r } := by
  obtain ⟨es, hp, h⟩ := postEvent_posted s1
    (completionTrb (s.cmdRing.base + BitVec.ofNat 64 (16 * s.cmdRing.deq)) slot code extra)
  exact ⟨es, _, hp, by rw [afterCommand, h]⟩

/-- Equal states with the same result are equal. -/
theorem withResult_congr {s1 s2 : State} (r : Result) (h : s1 = s2) :
    ({ s1 with result := r } : State) = { s2 with result := r } := by rw [h]

/-- A TRB on a transfer ring: the cursor moves, the TRB has its effect, one event is posted (R374). -/
theorem runTrb_transfer_posted {s t : State} {f : State → State × CmdResult}
    {g : Nat → Nat → DeviceSlot → State → State × XferResult} {sid e : Nat} (hu : s.unit = .transfer sid e)
    (h : s.runTrb f g = .next t) :
    ∃ d es r, s.slotAt sid = some d
      ∧ Posted (g sid e (pastTransfer d e) (s.setSlot sid (some (pastTransfer d e)))).1.evRings es
      ∧ t = { (g sid e (pastTransfer d e) (s.setSlot sid (some (pastTransfer d e)))).1 with
          evRings := es, result := r } := by
  simp only [State.runTrb, hu] at h
  split at h
  · cases h
  · next d hd =>
    obtain ⟨es, hp, he⟩ := postEvent_posted (g sid e (pastTransfer d e) (s.setSlot sid (some (pastTransfer d e)))).1
      (createTransferEvent ((d.ring e).addr (d.ring e).deq)
        (g sid e (pastTransfer d e) (s.setSlot sid (some (pastTransfer d e)))).2.code
        (g sid e (pastTransfer d e) (s.setSlot sid (some (pastTransfer d e)))).2.residual
        (BitVec.ofNat 8 sid) (BitVec.ofNat 5 e))
    obtain rfl := Host.Outcome.next.inj h
    exact ⟨d, es, _, hd, hp, withResult_congr _ he⟩

/-- A consumed TRB has an effect, whatever ring it is on, where its two meanings have outcomes (R320, R374). -/
theorem Effect.ofTrb {s t : State} {i : Instr} {f : State → State × CmdResult}
    {g : Nat → Nat → DeviceSlot → State → State × XferResult} (ht : isTrb i = true)
    (hf : ∀ s, CommandOutcome s i (f s).1) (hg : ∀ sid e d s, TransferOutcome i sid e d s (g sid e d s).1)
    (h : s.runTrb f g = .next t) : Effect s i t := by
  rcases unit_cases s with hu | ⟨sid, e, hu⟩
  · obtain ⟨es, r, hp, he⟩ := afterCommand_posted s (f (pastCommand s)).1 (f (pastCommand s)).2.slot.toNat
      (f (pastCommand s)).2.code.toNat (f (pastCommand s)).2.extra.toNat
    rw [runTrb_afterCommand s f g hu, he] at h
    cases h
    generalize (f (pastCommand s)).1 = s1, hf (pastCommand s) = ho at hp ⊢
    cases ho with
    | unchanged => exact Effect.command (s := s) ht hp r
    | slot hd hc calls => exact Effect.slotCommand (s := s) ht hd hc hp calls r
  · obtain ⟨d, es, r, hd, hp, rfl⟩ := runTrb_transfer_posted hu h
    generalize (g sid e (pastTransfer d e) (s.setSlot sid (some (pastTransfer d e)))).1 = s1,
      hg sid e (pastTransfer d e) (s.setSlot sid (some (pastTransfer d e))) = ho at hp ⊢
    cases ho with
    | unchanged hm dr calls => exact .transfer ht hu hd (.consumed i) hp hm dr calls r
    | slot hc hm dr calls =>
      simp only [State.setSlot_slotTab, List.set_set] at hp ⊢
      exact .transfer ht hu hd hc hp hm dr calls r

/-- A TRB that a ring answers with TRB Error has no effect of its own (R346, R391). -/
theorem transferTrbError_outcome (i : Instr) (sid e : Nat) (d : DeviceSlot) (s : State) :
    TransferOutcome i sid e d s (transferTrbError sid e d s).1 := .unchanged .nothing _ _

/-- A command of a slot has the outcome of its meaning on the slot it names (R321). -/
theorem slotCommand_outcome (t : Trb) {i : Instr} {f : Nat → DeviceSlot → State → State × BitVec 8 × BitVec 24}
    (hf : ∀ sid d s, s.slotAt sid = some d → CommandOutcome s i (f sid d s).1) (s : State) :
    CommandOutcome s i (slotCommand t f s).1 := by
  unfold slotCommand
  split
  · exact .unchanged
  · next d hd => exact hf _ d s hd

/-- A command of an endpoint changes its Device Slot, or nothing where the endpoint id is out of range (R333). -/
theorem endpointCommand_outcome (t : Trb) {i : Instr} {f : Nat → DeviceSlot → DeviceSlot}
    (hf : ∀ c u used sid d e, 1 ≤ e → SlotChange c u used sid d i (f e d) used) (sid : Nat) (d : DeviceSlot)
    (s : State) (hd : s.slotAt sid = some d) : CommandOutcome s i (endpointCommand t f sid d s).1 := by
  unfold endpointCommand
  split
  · next he => exact .slot hd (hf _ _ _ _ _ _ (one_le_of_epOk he)) _
  · exact .unchanged

theorem enableSlot_outcome (t : Trb) (s : State) : CommandOutcome s (.enableSlot t) (enableSlot s).1 := by
  unfold enableSlot
  split
  · exact .unchanged
  · next sid hs =>
    have hdis := List.find?_some hs
    split
    · next d hd =>
      simp only [State.slotIsDisabled, hd, decide_eq_true_eq] at hdis
      exact .slot hd (.enable hdis) _
    · exact .unchanged

theorem disableSlot_outcome (t : Trb) (sid : Nat) (d : DeviceSlot) (s : State) (hd : s.slotAt sid = some d) :
    CommandOutcome s (.disableSlot t) (disableSlot sid d s).1 := by
  unfold disableSlot
  split
  · exact .unchanged
  · next h =>
    rw [freeSlotAddress_eq]
    exact .slot hd (.disable h) _

theorem addressDevice_outcome (t : Trb) (sid : Nat) (d : DeviceSlot) (s : State) (hd : s.slotAt sid = some d) :
    CommandOutcome s (.addressDevice t) (addressDevice sid d s).1 := by
  unfold addressDevice
  split
  · exact .unchanged
  · next h =>
    split
    · exact .unchanged
    · next a s1 ha =>
      obtain ⟨h1, h2, hfree, -, rfl⟩ := allocateAddress_spec s s1 a ha
      exact .slot hd (.address (not_or.1 h) ⟨h1, h2⟩ hfree) _

/-- A Device Slot set to the state it has is as before. -/
theorem setState_self {d : DeviceSlot} {st : SlotState} (h : d.ctx.state = st) : d.setState st = d := by
  subst h; rfl

theorem configureEndpoint_outcome (t : Trb) (sid : Nat) (d : DeviceSlot) (s : State) (hd : s.slotAt sid = some d) :
    CommandOutcome s (.configureEndpoint t) (configureEndpoint sid d s).1 := by
  unfold configureEndpoint
  by_cases ha : d.ctx.state = .addressed
  · simpa [ha, DeviceSlot.setState] using CommandOutcome.setSlot hd (.configure (x := t) (.inl ha))
  · by_cases hc : d.ctx.state = .configured
    · have h := CommandOutcome.setSlot hd (.configure (x := t) (.inr hc))
      rw [setState_self hc] at h
      simpa [hc] using h
    · simpa [ha, hc, setSlot_self hd] using CommandOutcome.unchanged

theorem resetDevice_outcome (t : Trb) (sid : Nat) (d : DeviceSlot) (s : State) (hd : s.slotAt sid = some d) :
    CommandOutcome s (.resetDevice t) (resetDevice sid d s).1 := by
  unfold resetDevice
  split
  · exact .unchanged
  · next h =>
    rw [freeSlotAddress_eq]
    exact .slot hd (.resetDevice h) _

/-- The end of a Normal TRB: the device's answer, and where it is stored (R385, R392). -/
theorem normalDevice_outcome (t : Trb) (sid e : Nat) (d : DeviceSlot) (data : List Byte) (s : State) :
    TransferOutcome (.normal t) sid e d s (normalDevice t sid e d data s).1 := by
  obtain ⟨dr, hc⟩ := callDevice_spec s (.handleTransfer d.dev e data)
  unfold normalDevice
  simp only [hc]
  split
  · exact .slot (.failed ⟨t, .inl rfl⟩) .nothing dr _
  · exact .unchanged .nothing dr _
  · split
    · exact .unchanged .nothing dr _
    · next resp _ _ _ =>
      obtain ⟨dr', hw | hw⟩ := memWrite_spec { s with calls := s.calls ++ [.handleTransfer d.dev e data], draws := dr }
        t.parameter (resp.take (min resp.length (transferLength t).toNat))
      · simpa [hw] using TransferOutcome.unchanged (.bytes _ _) dr' _
      · simpa [hw] using TransferOutcome.unchanged .nothing dr' _

theorem normal_outcome (t : Trb) (sid e : Nat) (d : DeviceSlot) (s : State) :
    TransferOutcome (.normal t) sid e d s (normal t sid e d s).1 := by
  unfold normal
  split
  · exact normalDevice_outcome t sid e d _ s
  · obtain ⟨dr, hr, -⟩ := memRead_spec s t.parameter (transferLength t).toNat
    simp only [hr]
    split
    · exact .unchanged .nothing dr _
    · exact (normalDevice_outcome t sid e d _ _).of_draws

theorem setupStage_outcome (t : Trb) (sid e : Nat) (d : DeviceSlot) (s : State) :
    TransferOutcome (.setupStage t) sid e d s (setupStage t sid e d s).1 := by
  obtain ⟨dr, hc⟩ := callDevice_spec s (.handleControl d.dev (leBytes t.parameter 8))
  unfold setupStage
  simp only [hc]
  split
  · exact .slot (.failed ⟨t, .inr rfl⟩) .nothing dr _
  · exact .slot (.answered ⟨t, .inl rfl⟩ _) .nothing dr _

theorem dataStage_outcome (t : Trb) (sid e : Nat) (d : DeviceSlot) (s : State) :
    TransferOutcome (.dataStage t) sid e d s (dataStage t sid e d s).1 := by
  have hd : ∀ bytes, TransferChange e d (.dataStage t) { d with ctlResp := bytes } :=
    .answered ⟨t, .inr (.inl rfl)⟩
  unfold dataStage
  split
  · obtain ⟨dr, hw | hw⟩ := memWrite_spec s t.parameter (d.ctlResp.take (min d.ctlResp.length (transferLength t).toNat))
    · simpa [hw, State.setSlot] using TransferOutcome.slot (hd []) (.bytes _ _) dr s.calls
    · simpa [hw] using TransferOutcome.unchanged .nothing dr _
  · exact .slot (hd []) .nothing _ _

theorem statusStage_outcome (t : Trb) (sid e : Nat) (d : DeviceSlot) (s : State) :
    TransferOutcome (.statusStage t) sid e d s (statusStage sid e d s).1 :=
  .slot (.answered ⟨t, .inr (.inr rfl)⟩ []) .nothing _ _

/-- A TRB that neither ring executes only moves the cursor (R345, R346, R389, R391). -/
theorem Effect.ofTrbError {s t : State} {i : Instr} {slot : BitVec 8} (ht : isTrb i = true)
    (h : s.runTrb (commandTrbError slot) transferTrbError = .next t) : Effect s i t :=
  .ofTrb ht (fun _ => .unchanged) (transferTrbError_outcome i) h

/-- A transfer TRB: TRB Error on the command ring (R346). -/
theorem Effect.ofTransfer {s t : State} {i : Instr} {slot : BitVec 8}
    {g : Nat → Nat → DeviceSlot → State → State × XferResult} (ht : isTrb i = true)
    (hg : ∀ sid e d s, TransferOutcome i sid e d s (g sid e d s).1)
    (h : s.runTrb (commandTrbError slot) g = .next t) : Effect s i t :=
  .ofTrb ht (fun _ => .unchanged) hg h

/-- A command TRB: TRB Error on a transfer ring (R391). -/
theorem Effect.ofCommand {s t : State} {i : Instr} {f : State → State × CmdResult} (ht : isTrb i = true)
    (hf : ∀ s, CommandOutcome s i (f s).1) (h : s.runTrb f transferTrbError = .next t) : Effect s i t :=
  .ofTrb ht hf (transferTrbError_outcome i) h

/-! ### Every instruction -/

theorem execMfindex_effect {s t : State} {a : Access} (h : execMfindex a s = .next t) : Effect s (.mfindex a) t := by
  cases a with
  | read lane =>
    rcases drawMfindex_spec s with ⟨v, r, -, hd⟩ | ⟨-, hd⟩ <;>
      (simp only [execMfindex, hd] at h; cases h; exact .quiet _ _ _)
  | write v => cases h; exact .quiet _ _ _
  | writeNarrow lane => cases h; exact .quiet _ _ _

/-- USBCMD, short of a controller reset (R261, R262). -/
theorem execUsbcmd_effect {s t : State} {a : Access} (hr : isReset (.usbcmd a) = false)
    (h : execUsbcmd a s = .next t) : Effect s (.usbcmd a) t := by
  cases a with
  | read lane => cases h; exact .quiet _ _ _
  | write v =>
    have hv : bit v 1 = false := hr
    simp only [execUsbcmd, accessRegister, writeUsbcmd, hv] at h
    cases h
    exact .run v _ _ _ _ _
  | writeNarrow lane => cases h; exact .quiet _ _ _

/-- A USBCMD write of HCRST is a controller reset (R261, R461). -/
theorem exec_reset {i : Instr} {s t : State} (hr : isReset i = true) (h : exec i s = .next t) :
    ∃ r, t = { controllerReset s with result := r } := by
  unfold isReset at hr
  split at hr
  · next v =>
    have hv : bit v 1 = true := hr
    simp only [exec, execUsbcmd, accessRegister, writeUsbcmd, hv, if_true] at h
    cases h
    exact ⟨_, rfl⟩
  · cases hr

/-- Everything an instruction other than a controller reset can do is one of its effects. -/
theorem exec_effect {i : Instr} {s t : State} (hr : isReset i = false) (h : exec i s = .next t) : Effect s i t := by
  cases i
  case normal x => exact .ofTransfer rfl (normal_outcome x) h
  case setupStage x => exact .ofTransfer rfl (setupStage_outcome x) h
  case dataStage x => exact .ofTransfer rfl (dataStage_outcome x) h
  case statusStage x => exact .ofTransfer rfl (statusStage_outcome x) h
  case noop x => exact .ofTransfer rfl (fun _ _ _ _ => .unchanged .nothing _ _) h
  case enableSlot x => exact .ofCommand rfl (enableSlot_outcome x) h
  case disableSlot x => exact .ofCommand rfl (slotCommand_outcome x (disableSlot_outcome x)) h
  case addressDevice x => exact .ofCommand rfl (slotCommand_outcome x (addressDevice_outcome x)) h
  case configureEndpoint x => exact .ofCommand rfl (slotCommand_outcome x (configureEndpoint_outcome x)) h
  case evaluateContext x => exact .ofCommand rfl (slotCommand_outcome x (fun _ _ _ _ => .unchanged)) h
  case resetEndpoint x =>
    exact .ofCommand rfl (slotCommand_outcome x (endpointCommand_outcome x fun _ _ _ _ _ _ => .resetEndpoint)) h
  case stopEndpoint x =>
    exact .ofCommand rfl (slotCommand_outcome x (endpointCommand_outcome x fun _ _ _ _ _ _ => .stopEndpoint)) h
  case setTrDequeuePointer x =>
    exact .ofCommand rfl (slotCommand_outcome x (endpointCommand_outcome x fun _ _ _ _ _ _ => .setDequeue)) h
  case resetDevice x => exact .ofCommand rfl (slotCommand_outcome x (resetDevice_outcome x)) h
  case noopCommand x => exact .ofCommand rfl (fun _ => .unchanged) h
  case isoch | link | eventData | forceEvent | negotiateBandwidth | setLatencyToleranceValue | getPortBandwidth
    | forceHeader | transferEvent | commandCompletionEvent | portStatusChangeEvent | bandwidthRequestEvent
    | doorbellEvent | hostControllerEvent | deviceNotificationEvent | mfindexWrapEvent | malformedTrb =>
    exact .ofTrbError rfl h
  case caplengthHciversion | hcsparams1 | hcsparams2 | hcsparams3 | hccparams1 | dboff | rtsoff | pagesize =>
    exact .readOnly _ h
  case usbcmd a => exact execUsbcmd_effect hr h
  case usbsts a => exact .register .usbsts h (fun v => .status v _)
  case dnctrl a => exact .register .dnctrl h (fun v => .dnctrl v _ _)
  case crcrLo a => exact .register .crcrLo h (fun v => writeCrcrLo_effect s v _)
  case crcrHi a => exact .register .crcrHi h (fun v => writeCrcrHi_effect s v _)
  case dcbaapLo a =>
    rw [exec, execDcbaapLo] at h
    exact .register .dcbaapLo h (fun v => .dcbaapLo v _ _)
  case dcbaapHi a =>
    rw [exec, execDcbaapHi] at h
    exact .register .dcbaapHi h (fun v => .dcbaapHi v _ _)
  case config a =>
    rw [exec, execConfig] at h
    exact .register .config h (fun v => .config v _ _)
  case portsc p a => exact .portRegister (.portsc p) h (fun v => writePortsc_effect s p v _)
  case portpmsc p a => exact .portRegister (.portpmsc p) h (fun v => .portpmsc p v _)
  case portliPorthlpmc p hlpmc a =>
    rw [exec, execPortliPorthlpmc] at h
    exact .portRegister (.portliPorthlpmc p hlpmc) h (fun _ => .quiet _ _ _)
  case mfindex a => exact execMfindex_effect h
  case iman n a => exact .intrRegister (.iman n) h (fun v => .intr (.iman v) _ _)
  case imod n a => exact .intrRegister (.imod n) h (fun v => .intr (.imod v) _ _)
  case erstsz n a =>
    rw [exec, execErstsz] at h
    exact .intrRegister (.erstsz n) h (fun v => .intr (.erstsz v) _ _)
  case erstbaLo n a =>
    rw [exec, execErstbaLo] at h
    exact .intrRegister (.erstbaLo n) h (fun v => loadErst_effect s _ fun _ => .erstbaLo v)
  case erstbaHi n a =>
    rw [exec, execErstbaHi] at h
    exact .intrRegister (.erstbaHi n) h (fun v => loadErst_effect s _ fun _ => .erstbaHi v)
  case erdpLo n a => exact .intrRegister (.erdpLo n) h (fun v => .intr (.erdpLo v _) _ _)
  case erdpHi n a =>
    rw [exec, execErdpHi] at h
    exact .intrRegister (.erdpHi n) h (fun v => .intr (.erdpHi v _) _ _)
  case db k a =>
    rw [exec, execDb] at h
    split at h
    · exact .register (.db k) h (fun v => writeDb_effect s k v _)
    · exact .readOnly _ h
  case outOfRange a => cases h; exact .quiet _ _ _
  case cmd b => cases h; exact .cmd b _
  case xfer sid e b => exact execXfer_effect h
  case xinit sid e base size => exact execXinit_effect h
  case evt n => exact execEvt_effect h
  case attach p dev => exact execAttach_effect h
  case detach sid => exact execDetach_effect h

end Sys2Proof.Machine
end

section
/-! PROOFS. What an instruction leaves: the slot table and its entries (R46, R323, R347), then each register with its own
writers (R32 to R53, R206). -/

namespace Sys2Proof.Machine

open Sys2Proof.Claims

/-! ### Lists with one element changed -/

/-- An element of a list with one element modified is as before, or the modified one. -/
theorem getD_modify_cases {α : Type} (l : List α) (n m : Nat) (f : α → α) (x : α) :
    (l.modify n f).getD m x = l.getD m x ∨ n = m ∧ (l.modify n f).getD m x = f (l.getD m x) := by
  simp only [List.getD_eq_getElem?_getD, List.getElem?_modify]
  by_cases h : n = m
  · cases l[m]? <;> simp [h]
  · simp [h]

/-- What a modification keeps of each element it keeps of the list. -/
theorem getD_modify_keeps {α β : Type} (φ : α → β) (l : List α) (n m : Nat) (f : α → α) (x : α)
    (h : ∀ y, φ (f y) = φ y) : φ ((l.modify n f).getD m x) = φ (l.getD m x) := by
  rcases getD_modify_cases l n m f x with e | ⟨-, e⟩ <;> rw [e]
  exact h _

/-- A modification leaves the other elements. -/
theorem getD_modify_ne {α : Type} (l : List α) {n m : Nat} (f : α → α) (x : α) (h : n ≠ m) :
    (l.modify n f).getD m x = l.getD m x := by
  rcases getD_modify_cases l n m f x with e | ⟨e, -⟩
  · exact e
  · exact absurd e h

/-- An element of a list with one element replaced is as before, or the new one. -/
theorem getD_set_cases {α : Type} (l : List α) (n m : Nat) (y x : α) :
    (l.set n y).getD m x = l.getD m x ∨ n = m ∧ (l.set n y).getD m x = y := by
  simp only [List.getD_eq_getElem?_getD, List.getElem?_set]
  by_cases h : n = m
  · subst h
    by_cases hl : n < l.length <;> simp [hl]
  · simp [h]

/-- A replacement leaves the other elements. -/
theorem getD_set_ne {α : Type} (l : List α) {n m : Nat} (y x : α) (h : n ≠ m) :
    (l.set n y).getD m x = l.getD m x := by
  rcases getD_set_cases l n m y x with e | ⟨e, -⟩
  · exact e
  · exact absurd e h

/-- A replacement inside the list is what it put there. -/
theorem getD_set_self {α : Type} (l : List α) {n : Nat} (y x : α) (h : n < l.length) : (l.set n y).getD n x = y := by
  simp [List.getD_eq_getElem?_getD, h]

/-! ### Device Slots -/

/-- Changing an endpoint's state keeps the endpoint types (R48). -/
theorem setEpState_types (d : DeviceSlot) (e : Nat) (st : EpState) :
    (d.setEpState e st).eps.map EpContext.type = d.eps.map EpContext.type := by
  apply List.ext_getElem?
  intro k
  simp only [DeviceSlot.setEpState, List.getElem?_map, List.getElem?_modify]
  split <;> simp [Function.comp_def]

/-- Disabling endpoints keeps their types (R48). -/
theorem disableFrom_types (d : DeviceSlot) (lo : Nat) :
    (d.disableFrom lo).eps.map EpContext.type = d.eps.map EpContext.type := by
  apply List.ext_getElem?
  intro k
  simp only [DeviceSlot.disableFrom, List.getElem?_map, List.getElem?_mapIdx, Option.map_map]
  congr 1
  funext c
  by_cases h : lo ≤ k <;> simp [h]

/-- Enabling endpoints keeps their types (R48). -/
theorem enableEndpoints_types (d : DeviceSlot) :
    d.enableEndpoints.eps.map EpContext.type = d.eps.map EpContext.type := by
  apply List.ext_getElem?
  intro k
  simp only [DeviceSlot.enableEndpoints, List.getElem?_map, List.getElem?_mapIdx, Option.map_map]
  congr 1
  funext c
  by_cases h : 2 ≤ k ∧ c.state = .disabled <;> simp [h]

/-- A controller reset keeps the endpoint types (R463). -/
theorem hcrst_types (d : DeviceSlot) : d.hcrst.eps.map EpContext.type = d.eps.map EpContext.type := by
  simp [DeviceSlot.hcrst, Function.comp_def]

/-- What no instruction changes of a Device Slot that stays in its entry (R46, R47, R48; log 6). -/
def SameDevice (d d' : DeviceSlot) : Prop :=
  d'.port = d.port ∧ d'.dev = d.dev ∧ d'.serial = d.serial ∧ d'.ctx.routeString = d.ctx.routeString
    ∧ d'.ctx.speed = d.ctx.speed ∧ d'.eps.map EpContext.type = d.eps.map EpContext.type

theorem SameDevice.refl (d : DeviceSlot) : SameDevice d d := ⟨rfl, rfl, rfl, rfl, rfl, rfl⟩

/-- A transfer TRB keeps the device of its slot (R384). -/
theorem TransferChange.sameDevice {e : Nat} {d d' : DeviceSlot} {i : Instr} (h : TransferChange e d i d') :
    SameDevice d d' := by
  cases h with
  | failed => exact ⟨rfl, rfl, rfl, rfl, rfl, setEpState_types d e .error⟩
  | _ => exact ⟨rfl, rfl, rfl, rfl, rfl, rfl⟩

section
variable {c : Config} {u : Consumer} {used used' : List Bool} {sid : Nat} {d d' : DeviceSlot} {i : Instr}

/-- No instruction changes the device of a slot (R46, R47, R48). -/
theorem SlotChange.sameDevice (h : SlotChange c u used sid d i d' used') : SameDevice d d' := by
  cases h with
  | disable => exact ⟨rfl, rfl, rfl, rfl, rfl, disableFrom_types _ 1⟩
  | address => exact ⟨rfl, rfl, rfl, rfl, rfl, setEpState_types _ 1 .running⟩
  | configure => exact ⟨rfl, rfl, rfl, rfl, rfl, enableEndpoints_types _⟩
  | resetEndpoint => exact ⟨rfl, rfl, rfl, rfl, rfl, setEpState_types d _ _⟩
  | stopEndpoint => exact ⟨rfl, rfl, rfl, rfl, rfl, setEpState_types d _ _⟩
  | resetDevice => exact ⟨rfl, rfl, rfl, rfl, rfl, disableFrom_types _ 2⟩
  | transfer _ _ h => exact h.sameDevice
  | _ => exact ⟨rfl, rfl, rfl, rfl, rfl, rfl⟩

/-- The draining flags of a slot are the doorbell's and the drain's to change (R52). -/
theorem SlotChange.draining (h : SlotChange c u used sid d i d' used') : d'.draining = d.draining := by
  cases h with
  | transfer _ _ h => cases h <;> rfl
  | _ => rfl

/-- The moves of the slot state machine (R323). -/
theorem SlotChange.state (h : SlotChange c u used sid d i d' used') :
    d'.ctx.state = d.ctx.state
      ∨ ((∃ x, i = .enableSlot x) ∧ d.ctx.state = .disabled ∧ d'.ctx.state = .default)
      ∨ ((∃ x, i = .addressDevice x) ∧ (d.ctx.state = .disabled ∨ d.ctx.state = .default)
        ∧ d'.ctx.state = .addressed)
      ∨ ((∃ x, i = .configureEndpoint x) ∧ d.ctx.state = .addressed ∧ d'.ctx.state = .configured)
      ∨ ((∃ x, i = .resetDevice x) ∧ d.ctx.state ≠ .disabled ∧ d'.ctx.state = .default)
      ∨ (((∃ x, i = .disableSlot x) ∨ isReset i = true) ∧ d'.ctx.state = .disabled) := by
  cases h with
  | enable h => exact .inr (.inl ⟨⟨_, rfl⟩, h, rfl⟩)
  | disable => exact .inr (.inr (.inr (.inr (.inr ⟨.inl ⟨_, rfl⟩, rfl⟩))))
  | address h =>
    have hd : d.ctx.state = .disabled ∨ d.ctx.state = .default := by
      cases hs : d.ctx.state <;> simp_all
    exact .inr (.inr (.inl ⟨⟨_, rfl⟩, hd, rfl⟩))
  | configure h =>
    rcases h with h | h
    · exact .inr (.inr (.inr (.inl ⟨⟨_, rfl⟩, h, rfl⟩)))
    · exact .inl h.symm
  | resetDevice h => exact .inr (.inr (.inr (.inr (.inl ⟨⟨_, rfl⟩, h, rfl⟩))))
  | transfer _ _ h => cases h <;> exact .inl rfl
  | _ => exact .inl rfl

/-- The transfer rings are changed by TRBs, XFER and XINIT only (R53). -/
theorem SlotChange.rings (h : SlotChange c u used sid d i d' used') (ht : isTrb i = false)
    (hx : ∀ e b, i ≠ .xfer sid e b) (hi : ∀ e base size, i ≠ .xinit sid e base size) : d'.rings = d.rings := by
  cases h with
  | xfer => exact absurd rfl (hx _ _)
  | xinit => exact absurd rfl (hi _ _ _)
  | transfer h => exact absurd h (by simp [ht])
  | _ => cases ht

/-- The stored control response is changed by the stages on the slot's own ring, Disable Slot and Reset Device only
(R46). -/
theorem SlotChange.ctlResp (h : SlotChange c u used sid d i d' used')
    (hc : ∀ x, i ≠ .disableSlot x ∧ i ≠ .resetDevice x)
    (hs : (∀ x, i ≠ .setupStage x ∧ i ≠ .dataStage x ∧ i ≠ .statusStage x) ∨ ∀ e, u ≠ .transfer sid e) :
    d'.ctlResp = d.ctlResp := by
  cases h with
  | disable => exact absurd rfl (hc _).1
  | resetDevice => exact absurd rfl (hc _).2
  | transfer _ hu h =>
    cases h with
    | answered hi =>
      rcases hs with hs | hs
      · obtain ⟨x, rfl | rfl | rfl⟩ := hi
        · exact absurd rfl (hs x).1
        · exact absurd rfl (hs x).2.1
        · exact absurd rfl (hs x).2.2
      · exact absurd hu (hs _)
    | _ => rfl
  | _ => rfl

/-- The address bitmap is changed by Disable Slot, Address Device and Reset Device only (R49). -/
theorem SlotChange.addrUsed (h : SlotChange c u used sid d i d' used')
    (hc : ∀ x, i ≠ .disableSlot x ∧ i ≠ .addressDevice x ∧ i ≠ .resetDevice x) : used' = used := by
  cases h with
  | disable => exact absurd rfl (hc _).1
  | address => exact absurd rfl (hc _).2.1
  | resetDevice => exact absurd rfl (hc _).2.2
  | _ => rfl

end

/-! ### The slot table -/

/-- Everything an instruction other than a controller reset can make of the slot table and the address bitmap. -/
inductive TableChange (s : State) : Instr → List (Option DeviceSlot) → List Bool → Prop where
  | same (i : Instr) : TableChange s i s.slotTab s.addrUsed
  | slot {i : Instr} {sid : Nat} {d d' : DeviceSlot} {used : List Bool} (hd : s.slotAt sid = some d)
      (hc : SlotChange s.cfg s.unit s.addrUsed sid d i d' used) :
      TableChange s i (s.slotTab.set sid (some d')) used
  | drain {k : Nat} {v : Word} {d : DeviceSlot} (hsplit : s.cfg.atomicTransferDrain = false)
      (hd : s.slotAt k = some d) :
      TableChange s (.db k (.write v)) (s.slotTab.set k (some (d.setDraining (v.toNat % 256) true))) s.addrUsed
  | attach {p dev sid : Nat} (serial : Nat) (sp : Speed) (hs : 1 ≤ sid ∧ sid ≤ s.cfg.maxSlots ∧ s.entry sid = none)
      (hp : p < s.cfg.maxPorts) :
      TableChange s (.attach p dev) (s.slotTab.set sid (some (DeviceSlot.create s.cfg p dev serial sp))) s.addrUsed
  | detach {sid : Nat} {d : DeviceSlot} (hd : s.slotAt sid = some d) :
      TableChange s (.detach sid) (s.slotTab.set sid none) (released s.cfg s.addrUsed d.ctx.deviceAddress)

/-- An effect's change of the slot table and of the address bitmap. -/
theorem Effect.table {s t : State} {i : Instr} (h : Effect s i t) : TableChange s i t.slotTab t.addrUsed := by
  cases h with
  | splitDrain k v hsplit hd => exact .drain hsplit hd
  | hostSlot hd hc => exact .slot hd hc
  | attach p dev sp hp _ hs => exact .attach _ sp hs hp
  | detach sid hd => exact .detach hd
  | slotCommand _ hd hc => exact .slot hd hc
  | transfer ht hu hd hc => exact .slot hd (.transfer ht hu hc)
  | _ => exact .same _

/-- A Device Slot at a usable id is the one in the table's entry (R45). -/
theorem entry_of_slotAt {s : State} {sid : Nat} {d : DeviceSlot} (h : s.slotAt sid = some d) :
    s.entry sid = some d := by
  simp [State.entry, List.getD_eq_getElem?_getD, ((slotAt_spec s sid d).1 h).2.2]

/-- An entry that holds a Device Slot is in the table. -/
theorem entry_lt {s : State} {sid : Nat} {d : DeviceSlot} (h : s.entry sid = some d) : sid < s.slotTab.length := by
  by_contra hn
  rw [State.entry, List.getD_eq_default _ _ (Nat.le_of_not_lt hn)] at h
  cases h

/-- The entries of a table with one entry replaced: as before, or the new one. -/
theorem entry_set_cases {s t : State} {k : Nat} {o : Option DeviceSlot} (ht : t.slotTab = s.slotTab.set k o)
    (sid : Nat) : t.entry sid = s.entry sid ∨ k = sid ∧ t.entry sid = o := by
  rw [State.entry, ht]
  exact getD_set_cases _ _ _ _ _

/-- How a Device Slot that stays in its entry changes: not at all, by a slot change, or by a draining flag set (R52). -/
theorem Effect.entry {s t : State} {i : Instr} {sid : Nat} {d d' : DeviceSlot} (h : Effect s i t)
    (hd : s.entry sid = some d) (hd' : t.entry sid = some d') :
    d' = d ∨ (∃ used, SlotChange s.cfg s.unit s.addrUsed sid d i d' used)
      ∨ ∃ v, i = .db sid (.write v) ∧ s.cfg.atomicTransferDrain = false
        ∧ d' = d.setDraining (v.toNat % 256) true := by
  have htab := h.table
  generalize hT : t.slotTab = T, t.addrUsed = U at htab
  have kept (e : t.entry sid = s.entry sid) : d' = d := Option.some.inj (hd'.symm.trans (e.trans hd))
  cases htab with
  | same => exact .inl (kept (by rw [State.entry, hT, State.entry]))
  | slot hk hc =>
    rcases entry_set_cases hT sid with e | ⟨rfl, e⟩
    · exact .inl (kept e)
    · cases hd'.symm.trans e
      cases (entry_of_slotAt hk).symm.trans hd
      exact .inr (.inl ⟨_, hc⟩)
  | drain hsplit hk =>
    rcases entry_set_cases hT sid with e | ⟨rfl, e⟩
    · exact .inl (kept e)
    · cases hd'.symm.trans e
      cases (entry_of_slotAt hk).symm.trans hd
      exact .inr (.inr ⟨_, rfl, hsplit, rfl⟩)
  | attach serial sp hs hp =>
    rcases entry_set_cases hT sid with e | ⟨rfl, -⟩
    · exact .inl (kept e)
    · cases hs.2.2.symm.trans hd
  | detach hk =>
    rcases entry_set_cases hT sid with e | ⟨rfl, e⟩
    · exact .inl (kept e)
    · cases hd'.symm.trans e

/-- Only DETACH empties an entry of the slot table, and only ATTACH fills one (R45, R400, R403). -/
theorem Effect.entry_isNone {s t : State} {i : Instr} (h : Effect s i t) (sid : Nat) :
    (i ≠ .detach sid → s.entry sid ≠ none → t.entry sid ≠ none)
      ∧ ((∀ p dev, i ≠ .attach p dev) → s.entry sid = none → t.entry sid = none) := by
  have htab := h.table
  generalize hT : t.slotTab = T, t.addrUsed = U at htab
  have kept (e : t.entry sid = s.entry sid) :
      (i ≠ .detach sid → s.entry sid ≠ none → t.entry sid ≠ none)
        ∧ ((∀ p dev, i ≠ .attach p dev) → s.entry sid = none → t.entry sid = none) := by
    rw [e]
    exact ⟨fun _ h => h, fun _ h => h⟩
  cases htab with
  | same => exact kept (by rw [State.entry, hT, State.entry])
  | slot hk | drain _ hk =>
    rcases entry_set_cases hT sid with e | ⟨rfl, e⟩
    · exact kept e
    · simp [e, entry_of_slotAt hk]
  | attach =>
    rcases entry_set_cases hT sid with e | ⟨-, e⟩
    · exact kept e
    · exact ⟨fun _ _ => by simp [e], fun hi => absurd rfl (hi _ _)⟩
  | detach =>
    rcases entry_set_cases hT sid with e | ⟨rfl, e⟩
    · exact kept e
    · exact ⟨fun hi => absurd rfl hi, fun _ _ => e⟩

/-- The entries after a controller reset (R463). -/
theorem controllerReset_entry (s : State) (sid : Nat) :
    (controllerReset s).entry sid = (s.entry sid).map DeviceSlot.hcrst := by
  simp only [State.entry, controllerReset, List.getD_eq_getElem?_getD, List.getElem?_map]
  cases s.slotTab[sid]? <;> rfl

/-- Settles O51: a slot that stays in its entry is as before, changed by a command, or reset. -/
theorem slotStateMachine : Obligations.SlotStateMachine := by
  intro i s t sid d d' h hd hd'
  cases hr : isReset i with
  | true =>
    obtain ⟨r, rfl⟩ := exec_reset hr h
    obtain rfl : d.hcrst = d' := by simpa [hd] using (controllerReset_entry s sid).symm.trans hd'
    exact ⟨.inr (.inr (.inr (.inr (.inr ⟨.inr rfl, rfl⟩)))), rfl, rfl, rfl, rfl, rfl, hcrst_types d⟩
  | false =>
    rcases (exec_effect hr h).entry hd hd' with rfl | ⟨used, hc⟩ | ⟨v, -, -, rfl⟩
    · exact ⟨.inl rfl, SameDevice.refl _⟩
    · exact ⟨hr ▸ hc.state, hc.sameDevice⟩
    · exact ⟨.inl rfl, SameDevice.refl d⟩

end Sys2Proof.Machine
end

section
/-! PROOFS. Each field of the state with the instructions that can change it (R32 to R53, R206). -/

namespace Sys2Proof.Machine

open Sys2Proof.Claims

/-! ### Event rings and interrupters -/

/-- A posting on interrupter 0 leaves the other event rings (R221). -/
theorem Posted.getD {es es' : List EventRing} (h : Posted es es') {m : Nat} (hm : m ≠ 0) (x : EventRing) :
    es'.getD m x = es.getD m x := by
  cases h with
  | dropped => rfl
  | posted => exact getD_set_ne _ _ _ hm.symm

/-- Raising interrupter 0 leaves the other interrupters, and every enable bit (R431). -/
theorem Raised.getD {is is' : List Interrupter} (h : Raised is is') (m : Nat) (x : Interrupter) :
    (is'.getD m x).ie = (is.getD m x).ie ∧ (m ≠ 0 → is'.getD m x = is.getD m x) := by
  cases h with
  | silent => exact ⟨rfl, fun _ => rfl⟩
  | raised =>
    exact ⟨getD_modify_keeps Interrupter.ie is 0 m _ x (fun _ => rfl), fun hm => getD_modify_ne is _ x hm.symm⟩

/-- A load of segments leaves the other event rings (R283). -/
theorem Loaded.getD {es es' : List EventRing} {n : Nat} (h : Loaded es n es') {m : Nat} (hm : n ≠ m)
    (x : EventRing) : es'.getD m x = es.getD m x := by
  cases h with
  | kept => rfl
  | made => exact getD_set_ne _ _ _ hm

section
variable {es es' : List EventRing} {n : Nat} {i : Instr} {f : Interrupter → Interrupter}

/-- A register write is an access to a register of its interrupter (R37). -/
theorem IntrWrite.intrOf (h : IntrWrite es n i f es') : intrOf i = some n := by cases h <;> rfl

/-- IE and IP have IMAN as their only writer (R281). -/
theorem IntrWrite.ie_ip (h : IntrWrite es n i f es') (hi : ∀ a, i ≠ .iman n a) (x : Interrupter) :
    (f x).ie = x.ie ∧ (f x).ip = x.ip := by
  cases h with
  | iman => exact absurd rfl (hi _)
  | _ => exact ⟨rfl, rfl⟩

/-- EHB has the low half of ERDP as its only writer (R285). -/
theorem IntrWrite.ehb (h : IntrWrite es n i f es') (hi : ∀ a, i ≠ .erdpLo n a) (x : Interrupter) :
    (f x).ehb = x.ehb := by
  cases h with
  | erdpLo => exact absurd rfl (hi _)
  | _ => rfl

/-- A register write leaves the event rings of the other interrupters, and its own short of ERSTBA and ERDP (R283,
R285). -/
theorem IntrWrite.getD (h : IntrWrite es n i f es') {m : Nat}
    (hi : ∀ a, i ≠ .erstbaLo m a ∧ i ≠ .erstbaHi m a ∧ i ≠ .erdpLo m a ∧ i ≠ .erdpHi m a) (x : EventRing) :
    es'.getD m x = es.getD m x := by
  cases h with
  | erstbaLo v hl => exact hl.getD (fun e => (hi (.write v)).1 (by rw [e])) x
  | erstbaHi v hl => exact hl.getD (fun e => (hi (.write v)).2.1 (by rw [e])) x
  | erdpLo v => exact getD_set_ne _ _ _ (fun e => (hi (.write v)).2.2.1 (by rw [e]))
  | erdpHi v => exact getD_set_ne _ _ _ (fun e => (hi (.write v)).2.2.2 (by rw [e]))
  | _ => rfl

end

/-! ### The writers of each field -/

section
variable {s t : State} {i : Instr}

/-- The configuration, the unit and the inbox are no instruction's to change (R10, R30; log 2). -/
theorem Effect.fixed (h : Effect s i t) : t.cfg = s.cfg ∧ t.unit = s.unit ∧ t.inbox = s.inbox := by
  cases h <;> exact ⟨rfl, rfl, rfl⟩

/-- The run state and USBCMD have USBCMD as their only writer (R32, R261). -/
theorem Effect.ctrl (h : Effect s i t) (hi : ∀ a, i ≠ .usbcmd a) : t.ctrl = s.ctrl ∧ t.usbcmd = s.usbcmd := by
  cases h with
  | run => exact absurd rfl (hi _)
  | _ => exact ⟨rfl, rfl⟩

/-- The command ring's state machine, short of a controller reset (R206). -/
theorem Effect.cmdState (h : Effect s i t) :
    t.cmdState = s.cmdState
      ∨ ((∃ v, (i = .crcrLo (.write v) ∧ v.getLsbD 1 = false ∧ v.getLsbD 2 = false) ∨ i = .crcrHi (.write v))
        ∧ t.cmdState = .running ∧ t.cmdRing.init = true ∧ t.cmdRing.deq = 0 ∧ t.cmdRing.enq = 0)
      ∨ ((∃ v, i = .crcrLo (.write v) ∧ v.getLsbD 1 = true ∧ v.getLsbD 2 = false) ∧ s.cmdState = .running
        ∧ t.cmdState = .stopped)
      ∨ ((∃ v, i = .crcrLo (.write v) ∧ v.getLsbD 2 = true) ∧ s.cmdState = .running ∧ t.cmdState = .aborted)
      ∨ ((∃ v, i = .db 0 (.write v)) ∧ (s.cmdState = .stopped ∨ s.cmdState = .aborted) ∧ s.ctrl = .running
        ∧ s.cmdRing.init = true ∧ t.cmdState = .running) := by
  cases h with
  | crcrInit hi x cs hring =>
    obtain ⟨-, -, -, rfl⟩ := initialise_spec hring
    exact .inr (.inl ⟨hi, rfl, rfl, rfl, rfl⟩)
  | crcrStop v hv hrun =>
    cases h2 : v.getLsbD 2 with
    | false => exact .inr (.inr (.inl ⟨⟨v, rfl, hv.resolve_right (by rw [h2]; nofun), h2⟩, hrun, by simp⟩))
    | true => exact .inr (.inr (.inr (.inl ⟨⟨v, rfl, h2⟩, hrun, by simp⟩)))
  | commandDrain v hctrl hring =>
    rcases hring with hrun | ⟨hinit, hstop⟩
    · exact .inl hrun.symm
    · exact .inr (.inr (.inr (.inr ⟨⟨v, rfl⟩, hstop, hctrl, hinit, rfl⟩)))
  | _ => exact .inl rfl

/-- DNCTRL has one writer (R266). -/
theorem Effect.dnctrl_eq (h : Effect s i t) (hi : ∀ a, i ≠ .dnctrl a) : t.dnctrl = s.dnctrl := by
  cases h with
  | dnctrl => exact absurd rfl (hi _)
  | _ => rfl

/-- The writes of CRCR that store its pointer are writes of one of its halves (R268). -/
theorem crcr_of_pointerWrite
    (hi : ∃ v, (i = .crcrLo (.write v) ∧ v.getLsbD 1 = false ∧ v.getLsbD 2 = false) ∨ i = .crcrHi (.write v)) :
    ¬ ∀ a, i ≠ .crcrLo a ∧ i ≠ .crcrHi a := by
  intro hn
  obtain ⟨v, ⟨rfl, -⟩ | rfl⟩ := hi
  · exact (hn _).1 rfl
  · exact (hn _).2 rfl

/-- CRCR's stored bits have the halves of CRCR as writers (R268). -/
theorem Effect.crcr (h : Effect s i t) (hi : ∀ a, i ≠ .crcrLo a ∧ i ≠ .crcrHi a) :
    t.crcrPtr = s.crcrPtr ∧ t.crcrRcs = s.crcrRcs := by
  cases h with
  | crcrPointer hv | crcrInit hv => exact absurd hi (crcr_of_pointerWrite hv)
  | _ => exact ⟨rfl, rfl⟩

/-- DCBAAP has its halves as writers (R270). -/
theorem Effect.dcbaap (h : Effect s i t) (hi : ∀ a, i ≠ .dcbaapLo a ∧ i ≠ .dcbaapHi a) : t.dcbaap = s.dcbaap := by
  cases h with
  | dcbaapLo => exact absurd rfl (hi _).1
  | dcbaapHi => exact absurd rfl (hi _).2
  | _ => rfl

/-- CONFIG has one writer (R270). -/
theorem Effect.maxSlotsEn (h : Effect s i t) (hi : ∀ a, i ≠ .config a) : t.maxSlotsEn = s.maxSlotsEn := by
  cases h with
  | config => exact absurd rfl (hi _)
  | _ => rfl

/-- The doorbell targets and the accesses in progress have doorbells as writers (R290, R380). -/
theorem Effect.doorbells (h : Effect s i t) (hi : ∀ k a, i ≠ .db k a) :
    t.db = s.db ∧ t.locked = s.locked ∧ t.tasks = s.tasks ∧ t.cont = s.cont := by
  cases h with
  | doorbell | commandDrain | atomicDrain | splitDrain => exact absurd rfl (hi _ _)
  | _ => exact ⟨rfl, rfl, rfl, rfl⟩

/-- The address bitmap is changed by Disable Slot, Address Device, Reset Device and DETACH only (R49). -/
theorem Effect.addrUsed (h : Effect s i t)
    (hi : ∀ x, i ≠ .disableSlot x ∧ i ≠ .addressDevice x ∧ i ≠ .resetDevice x) (hd : ∀ k, i ≠ .detach k) :
    t.addrUsed = s.addrUsed := by
  have htab := h.table
  generalize t.slotTab = T, t.addrUsed = U at htab ⊢
  cases htab with
  | slot _ hc => exact hc.addrUsed hi
  | detach => exact absurd rfl (hd _)
  | _ => rfl

/-- HSE and SRE have USBSTS as their only writer, and EINT and PCD a port change too (R265, R402). -/
theorem Effect.usbsts (h : Effect s i t) (hi : ∀ a, i ≠ .usbsts a) :
    t.usbsts.hse = s.usbsts.hse ∧ t.usbsts.sre = s.usbsts.sre ∧ (changesPort i = false → t.usbsts = s.usbsts) := by
  cases h with
  | status => exact absurd rfl (hi _)
  | portReset | attach | detach => exact ⟨rfl, rfl, nofun⟩
  | _ => exact ⟨rfl, rfl, fun _ => rfl⟩

/-- The interrupters' register sets (R37, R281, R285, R402). -/
theorem Effect.intr_eq (h : Effect s i t) (m : Nat) :
    ((∀ a, i ≠ .iman m a) → (t.intr m).ie = (s.intr m).ie)
      ∧ ((m = 0 → changesPort i = false) →
        ((∀ a, i ≠ .iman m a) → (t.intr m).ip = (s.intr m).ip)
          ∧ ((∀ a, i ≠ .erdpLo m a) → (t.intr m).ehb = (s.intr m).ehb)
          ∧ (intrOf i ≠ some m → t.intr m = s.intr m)) := by
  have raised {is : List Interrupter} (hr : Raised s.intrs is) (e : t.intrs = is) (hp : changesPort i = true) :
      ((∀ a, i ≠ .iman m a) → (t.intr m).ie = (s.intr m).ie)
        ∧ ((m = 0 → changesPort i = false) → t.intr m = s.intr m) := by
    obtain ⟨hie, hne⟩ := hr.getD m Interrupter.fresh
    rw [State.intr, e]
    exact ⟨fun _ => hie, fun hm => hne (fun h0 => by simp [hm h0] at hp)⟩
  cases h with
  | portReset _ _ _ hr | attach _ _ _ _ _ _ _ hr | detach _ _ _ hr =>
    obtain ⟨hie, hsame⟩ := raised hr rfl rfl
    exact ⟨hie, fun hm => by simp [hsame hm]⟩
  | @intr _ n f _ hw =>
    rcases getD_modify_cases s.intrs n m f Interrupter.fresh with e | ⟨rfl, e⟩
    · have hsame : ((s.intrs.modify n f).getD m Interrupter.fresh) = s.intr m := e
      simp only [State.intr] at hsame ⊢
      rw [hsame]
      exact ⟨fun _ => rfl, fun _ => ⟨fun _ => rfl, fun _ => rfl, fun _ => rfl⟩⟩
    · simp only [State.intr]
      rw [e]
      exact ⟨fun hi => (hw.ie_ip hi _).1, fun _ => ⟨fun hi => (hw.ie_ip hi _).2, fun hi => hw.ehb hi _,
        fun hi => absurd hw.intrOf hi⟩⟩
  | _ => exact ⟨fun _ => rfl, fun _ => ⟨fun _ => rfl, fun _ => rfl, fun _ => rfl⟩⟩

/-- The port register sets (R35, R272, R274, R400, R403). -/
theorem Effect.port_eq (h : Effect s i t) (p : Nat) (hi : ∀ a, i ≠ .portsc p a) :
    ((t.port p).pec = (s.port p).pec ∧ (t.port p).wrc = (s.port p).wrc ∧ (t.port p).prc = (s.port p).prc)
      ∧ ((∀ dev, i ≠ .attach p dev) → (∀ k d, i = .detach k → s.slotAt k = some d → d.port ≠ p) →
        (t.port p).csc = (s.port p).csc ∧ ((∀ a, i ≠ .portpmsc p a) → t.port p = s.port p)) := by
  have same (e : t.port p = s.port p) :
      ((t.port p).pec = (s.port p).pec ∧ (t.port p).wrc = (s.port p).wrc ∧ (t.port p).prc = (s.port p).prc)
        ∧ ((t.port p).csc = (s.port p).csc ∧ t.port p = s.port p) := by simp [e]
  have other {n : Nat} {f : Port → Port} (e : t.ports = s.ports.modify n f) (hn : n ≠ p) : t.port p = s.port p := by
    rw [State.port, e]
    exact getD_modify_ne _ _ _ hn
  have bits {n : Nat} {f : Port → Port} (e : t.ports = s.ports.modify n f)
      (hf : ∀ q, (f q).pec = q.pec ∧ (f q).wrc = q.wrc ∧ (f q).prc = q.prc) :
      (t.port p).pec = (s.port p).pec ∧ (t.port p).wrc = (s.port p).wrc ∧ (t.port p).prc = (s.port p).prc := by
    rw [State.port, e]
    exact ⟨getD_modify_keeps Port.pec _ _ _ _ _ fun q => (hf q).1,
      getD_modify_keeps Port.wrc _ _ _ _ _ fun q => (hf q).2.1,
      getD_modify_keeps Port.prc _ _ _ _ _ fun q => (hf q).2.2⟩
  cases h with
  | portsc n v =>
    obtain ⟨h1, h2, h3⟩ := same (other rfl (fun e => hi (.write v) (by rw [e])))
    exact ⟨h1, fun _ _ => ⟨h2, fun _ => h3⟩⟩
  | portReset n v =>
    have hn : n ≠ p := fun e => hi (.write v) (by rw [e])
    obtain ⟨h1, h2, h3⟩ := same ((getD_modify_ne _ _ _ hn).trans (getD_modify_ne _ _ _ hn))
    exact ⟨h1, fun _ _ => ⟨h2, fun _ => h3⟩⟩
  | portpmsc n v =>
    exact ⟨bits rfl fun _ => ⟨rfl, rfl, rfl⟩, fun _ _ => ⟨getD_modify_keeps Port.csc _ _ _ _ _ fun _ => rfl,
      fun hp => other rfl (fun e => hp (.write v) (by rw [e]))⟩⟩
  | attach n dev =>
    refine ⟨bits rfl fun _ => ⟨rfl, rfl, rfl⟩, fun ha _ => ?_⟩
    obtain ⟨-, h2, h3⟩ := same (other rfl (fun e => ha dev (by rw [e])))
    exact ⟨h2, fun _ => h3⟩
  | detach k hd =>
    refine ⟨bits rfl fun _ => ⟨rfl, rfl, rfl⟩, fun _ hk => ?_⟩
    obtain ⟨-, h2, h3⟩ := same (other rfl (hk k _ rfl hd))
    exact ⟨h2, fun _ => h3⟩
  | _ => exact ⟨⟨rfl, rfl, rfl⟩, fun _ _ => ⟨rfl, fun _ => rfl⟩⟩

/-- The command ring is changed by CMD, a CRCR write and a TRB only (R40, R53). -/
theorem Effect.cmdRing (h : Effect s i t) (ht : isTrb i = false) (hi : ∀ a, i ≠ .crcrLo a ∧ i ≠ .crcrHi a)
    (hc : ∀ b, i ≠ .cmd b) : t.cmdRing = s.cmdRing := by
  cases h with
  | crcrInit hv => exact absurd hi (crcr_of_pointerWrite hv)
  | cmd => exact absurd rfl (hc _)
  | command h | slotCommand h => exact absurd (h.symm.trans ht) nofun
  | _ => rfl

/-- Event ring m is changed by EVT, ERSTBA and ERDP of interrupter m, and event ring 0 by a posted event too (R41,
R53). -/
theorem Effect.evRing (h : Effect s i t) (m : Nat) (he : i ≠ .evt m)
    (hi : ∀ a, i ≠ .erstbaLo m a ∧ i ≠ .erstbaHi m a ∧ i ≠ .erdpLo m a ∧ i ≠ .erdpHi m a)
    (h0 : m = 0 → isTrb i = false ∧ changesPort i = false ∧ ∀ a, i ≠ .crcrLo a) : t.evRing m = s.evRing m := by
  cases h with
  | crcrStop _ _ _ hp => exact hp.getD (fun e => (h0 e).2.2 _ rfl) _
  | portReset _ _ hp | attach _ _ _ _ _ _ hp | detach _ _ hp => exact hp.getD (fun e => nomatch (h0 e).2.1) _
  | intr hw => exact hw.getD hi _
  | evt n => exact getD_set_ne _ _ _ (fun e => he (e ▸ rfl))
  | command ht hp | slotCommand ht _ _ hp | transfer ht _ _ _ hp =>
    exact hp.getD (fun e => nomatch ht.symm.trans (h0 e).1) _
  | _ => rfl

/-- The transfer rings of a slot are changed by XFER, XINIT and a TRB only (R46, R53). -/
theorem Effect.rings (h : Effect s i t) {sid : Nat} {d d' : DeviceSlot} (hd : s.entry sid = some d)
    (hd' : t.entry sid = some d') (ht : isTrb i = false) (hx : ∀ e b, i ≠ .xfer sid e b)
    (hi : ∀ e base size, i ≠ .xinit sid e base size) : d'.rings = d.rings := by
  rcases h.entry hd hd' with rfl | ⟨used, hc⟩ | ⟨v, -, -, rfl⟩
  · rfl
  · exact hc.rings ht hx hi
  · rfl

/-- A slot's stored control response (R46). -/
theorem Effect.ctlResp (h : Effect s i t) {sid : Nat} {d d' : DeviceSlot} (hd : s.entry sid = some d)
    (hd' : t.entry sid = some d') (hi : ∀ x, i ≠ .disableSlot x ∧ i ≠ .resetDevice x)
    (hs : (∀ x, i ≠ .setupStage x ∧ i ≠ .dataStage x ∧ i ≠ .statusStage x) ∨ ∀ e, s.unit ≠ .transfer sid e) :
    d'.ctlResp = d.ctlResp := by
  rcases h.entry hd hd' with rfl | ⟨used, hc⟩ | ⟨v, -, -, rfl⟩
  · rfl
  · exact hc.ctlResp hi hs
  · rfl

/-- A slot's draining flags: its doorbell sets the one of its target, with a split drain (R52). -/
theorem Effect.draining (h : Effect s i t) {sid : Nat} {d d' : DeviceSlot} (hd : s.entry sid = some d)
    (hd' : t.entry sid = some d') (e : Nat) :
    d'.draining.getD e false = d.draining.getD e false
      ∨ ((∃ v, i = .db sid (.write v) ∧ v.toNat % 256 = e) ∧ s.cfg.atomicTransferDrain = false
        ∧ d'.draining.getD e false = true) := by
  rcases h.entry hd hd' with rfl | ⟨used, hc⟩ | ⟨v, rfl, hsplit, rfl⟩
  · exact .inl rfl
  · exact .inl (by rw [hc.draining])
  · rcases getD_set_cases d.draining (v.toNat % 256) e true false with h | ⟨hv, h⟩
    · exact .inl h
    · exact .inr ⟨⟨v, rfl, hv⟩, hsplit, h⟩

end

/-- A controller reset is a write of USBCMD (R261). -/
theorem usbcmd_of_isReset {i : Instr} (h : isReset i = true) : ∃ a, i = .usbcmd a := by
  unfold isReset at h
  split at h
  · exact ⟨_, rfl⟩
  · cases h

/-- Settles O50: a controller reset, or an effect, whose fields each have their writers. -/
theorem registersHaveTheirOwnWriters : Obligations.RegistersHaveTheirOwnWriters := by
  intro i s t h
  cases hr : isReset i with
  | true =>
    obtain ⟨r, rfl⟩ := exec_reset hr h
    obtain ⟨a, rfl⟩ := usbcmd_of_isReset hr
    exact ⟨rfl, rfl, rfl, fun hi => absurd rfl (hi a), .inr (.inr (.inr (.inr (.inr ⟨rfl, rfl, rfl⟩)))), nofun⟩
  | false =>
    have he := exec_effect hr h
    obtain ⟨hcfg, hunit, hinbox⟩ := he.fixed
    refine ⟨hcfg, hunit, hinbox, he.ctrl, ?_, fun _ => ⟨he.dnctrl_eq, he.crcr, he.dcbaap, he.maxSlotsEn,
      fun hi => (he.doorbells hi).1, he.addrUsed, he.usbsts, he.intr_eq, he.port_eq, he.cmdRing, he.evRing,
      fun sid d d' hd hd' => he.rings hd hd', fun sid d d' hd hd' => ⟨he.ctlResp hd hd', he.draining hd hd'⟩,
      fun hi => (he.doorbells hi).2, he.entry_isNone⟩⟩
    rcases he.cmdState with h | h | h | h | h
    · exact .inl h
    · exact .inr (.inl h)
    · exact .inr (.inr (.inl h))
    · exact .inr (.inr (.inr (.inl h)))
    · exact .inr (.inr (.inr (.inr (.inl h))))

end Sys2Proof.Machine
end

section
/-! PROOFS. One step, taken apart: what it fetches, what surrounds the instruction, and what a step that runs no instruction
does (R90, R91, R320, R374, R380, R410). -/

namespace Sys2Proof.Machine

open Sys2Proof.Claims

/-! ### What a step fetches -/

/-- The instruction a step runs, where it comes from, and the state it runs in (R90, R91; log 2, 3, 4). -/
inductive Fetches (s : State) : Source → Instr → State → Prop where
  | locked {t : Task} {u : Consumer} {b : Raw} (hl : s.locked = some t) (hn : nextTrb s t.work = some (u, b)) :
      Fetches s (.locked t) (instrOfRaw b) { s with unit := u }
  | access (a : MmioAccess) (rest : List Input) (hl : s.locked = none) :
      Fetches s .access (instrOfAccess s.cfg a)
        { s with inbox := rest, cont := (highHalfOf a).map (fun b => ⟨b, 0⟩) }
  | host (op : HostOp) (rest : List Input) (hl : s.locked = none) :
      Fetches s .host (instrOfHost op) { s with inbox := rest }
  | task {k : Nat} {t : Task} {u : Consumer} {b : Raw} (rest : List Input) (hl : s.locked = none)
      (hk : s.tasks[k]? = some t) (hn : nextTrb s t.work = some (u, b)) :
      Fetches s (.task k t) (instrOfRaw b) { s with inbox := rest, unit := u }
  | high {k : Nat} {h : HighHalf} (rest : List Input) (hl : s.locked = none)
      (hk : s.tasks[k]? = some ⟨.idle, some h⟩) :
      Fetches s (.high h) (instrOfAccess s.cfg h.access) { s with inbox := rest, tasks := s.tasks.eraseIdx k }

/-- What the turn of an access in progress fetches (R380, R82). -/
theorem fetchTask_spec {s s1 : State} {k : Nat} {src : Source} {i : Instr} (rest : List Input) (hl : s.locked = none)
    (h : fetchTask { s with inbox := rest } k = some (src, i, s1)) : Fetches s src i s1 := by
  unfold fetchTask at h
  split at h
  · cases h
  · next tk hk =>
    obtain ⟨w, high⟩ := tk
    cases w with
    | idle =>
      cases high with
      | none => cases h
      | some x => cases h; exact .high rest hl hk
    | cmdDrain p =>
      dsimp only at h
      split at h
      · next u b hn => cases h; exact .task rest hl hk hn
      · cases h
    | xferDrain sid serial e p =>
      dsimp only at h
      split at h
      · next u b hn => cases h; exact .task rest hl hk hn
      · cases h

/-- What a step fetches (R90, R91). -/
theorem fetch_spec {s s1 : State} {src : Source} {i : Instr} (h : fetch s = some (src, i, s1)) :
    Fetches s src i s1 := by
  unfold fetch at h
  split at h
  · next t hl =>
    split at h
    · next u b hn => cases h; exact .locked hl hn
    · cases h
  · next hl =>
    split at h
    · exact fetchTask_spec s.inbox hl h
    · next k r _ => exact fetchTask_spec r hl h
    · next a r _ => cases h; exact .access a r hl
    · next op r _ => cases h; exact .host op r hl
    · cases h
    · cases h
    · cases h

/-- A step is an instruction it fetched, with what surrounds it, or it is quiet (R90). -/
theorem step_cases {s t : State} (h : step s = .next t) :
    (∃ src i s1 t1, Fetches s src i s1 ∧ exec i s1 = .next t1 ∧ t = settle src t1) ∨ t = quiet s := by
  unfold step stepOf at h
  split at h
  · next src i s1 hf =>
    cases he : exec i s1 with
    | next t1 =>
      rw [he] at h
      exact .inl ⟨src, i, s1, t1, fetch_spec hf, he, (Host.Outcome.next.inj h).symm⟩
    | fault r => rw [he] at h; cases h
    | refused r => rw [he] at h; cases h
  · exact .inr (Host.Outcome.next.inj h).symm

/-- The bytes of a ring slot are a TRB's (R166, R171). -/
theorem isTrb_instrOfRaw (b : Raw) : isTrb (instrOfRaw b) = true := by
  unfold instrOfRaw instrOfTrb
  split
  · split <;> rfl
  · rfl

/-- A register's row is no TRB's (R250). -/
theorem isTrb_instrOfAccess (c : Config) (a : MmioAccess) : isTrb (instrOfAccess c a) = false := by
  unfold instrOfAccess
  split
  · next r acc _ => cases r <;> rfl
  · rfl

/-- A host operation's row is no TRB's (R410). -/
theorem isTrb_instrOfHost (op : HostOp) : isTrb (instrOfHost op) = false := by cases op <;> rfl

/-- A TRB is no controller reset (R261). -/
theorem isReset_of_isTrb {i : Instr} (h : isTrb i = true) : isReset i = false := by
  cases hr : isReset i with
  | false => rfl
  | true =>
    obtain ⟨a, rfl⟩ := usbcmd_of_isReset hr
    cases h

/-- A drain runs a transfer TRB only on a Running endpoint of a slot that is there (R374, R380). -/
theorem nextTrb_running {s : State} {w : Work} {sid e : Nat} {b : Raw}
    (h : nextTrb s w = some (.transfer sid e, b)) : ∃ d, s.slotAt sid = some d ∧ d.epState e = .running := by
  unfold nextTrb at h
  split at h
  · split at h <;> cases h
  · split at h
    · cases h
    · next d hd =>
      split at h
      · next hc => cases h; exact ⟨d, hd, hc.2.1⟩
      · cases h
  · cases h

/-- A TRB to be executed for a transfer ring has its slot there and its endpoint Running (R374, R380). -/
def State.Ready (s : State) (i : Instr) : Prop :=
  isTrb i = true → ∀ sid e, s.unit = .transfer sid e → ∃ d, s.slotAt sid = some d ∧ d.epState e = .running

/-- A fetched transfer TRB runs on a Running endpoint of a slot that is there (R374, R380). -/
theorem Fetches.ready {s s1 : State} {src : Source} {i : Instr} (h : Fetches s src i s1) : s1.Ready i := by
  intro ht sid e hu
  cases h with
  | locked _ hn | task _ _ _ hn => cases hu; exact nextTrb_running hn
  | access | high => cases ht.symm.trans (isTrb_instrOfAccess _ _)
  | host => cases ht.symm.trans (isTrb_instrOfHost _)

/-! ### What surrounds an instruction -/

/-- A fetch changes no state of the core but which TRB is executed and what is left to do (R30; log 2, 3, 16). -/
theorem Fetches.fields {s s1 : State} {src : Source} {i : Instr} (h : Fetches s src i s1) :
    ∃ u ts ib c, s1 = { s with unit := u, tasks := ts, inbox := ib, cont := c } := by
  cases h <;> exact ⟨_, _, _, _, rfl⟩

/-- What follows an instruction changes the accesses in progress and the result only (log 3, 4, 12, 16). -/
theorem settle_fields (src : Source) (s : State) :
    ∃ l ts c r, settle src s = { s with locked := l, tasks := ts, cont := c, result := r } := by
  unfold settle
  split
  · exact ⟨_, _, _, _, rfl⟩
  · exact ⟨_, _, _, _, rfl⟩
  · split <;> exact ⟨_, _, _, _, rfl⟩
  · exact ⟨_, _, _, _, rfl⟩
  · unfold joinHalves
    split <;> exact ⟨_, _, _, _, rfl⟩

/-- What a step that runs no instruction can do: an outside agent acts, or a drain ends (R96, R320, R374, R380). -/
inductive QuietEffect (s : State) : State → Prop where
  | outside {m : List Host.Cell} (hm : Memory.wf s.mem = true → Memory.wf m = true) (ib : List Input) (dr : Draws) :
      QuietEffect s { s with inbox := ib, mem := m, draws := dr }
  | ended {st : List (Option DeviceSlot)} {is : List Interrupter} {sts : UsbSts}
      (hst : st = s.slotTab
        ∨ ∃ sid d e, s.slotAt sid = some d ∧ st = s.slotTab.set sid (some (d.setDraining e false)))
      (his : is = s.intrs ∧ sts = s.usbsts
        ∨ is = s.intrs.modify 0 Interrupter.raised ∧ sts = { s.usbsts with eint := true })
      (l : Option Task) (ts : List Task) (ib : List Input) (r : Result) :
      QuietEffect s
        { s with slotTab := st, intrs := is, usbsts := sts, locked := l, tasks := ts, inbox := ib, result := r }

/-- A step in which nothing happens. -/
theorem QuietEffect.refl (s : State) : QuietEffect s s := .outside id _ _

/-- The end of an access raises interrupter 0 or not, and leaves the rest of the core (R320, R374). -/
theorem endAccess_fields (s : State) (t : Task) :
    ∃ is sts ts, endAccess s t = { s with intrs := is, usbsts := sts, tasks := ts, result := .none }
      ∧ (is = s.intrs ∧ sts = s.usbsts
        ∨ is = s.intrs.modify 0 Interrupter.raised ∧ sts = { s.usbsts with eint := true }) := by
  unfold endAccess
  cases t.work.posted <;> cases t.high
  · exact ⟨_, _, _, rfl, .inl ⟨rfl, rfl⟩⟩
  · exact ⟨_, _, _, rfl, .inl ⟨rfl, rfl⟩⟩
  · exact ⟨_, _, _, rfl, .inr ⟨rfl, rfl⟩⟩
  · exact ⟨_, _, _, rfl, .inr ⟨rfl, rfl⟩⟩

/-- The end of a split drain clears one draining flag, or none (R380). -/
theorem endDraining_fields (s : State) (w : Work) :
    ∃ st, endDraining s w = { s with slotTab := st }
      ∧ (st = s.slotTab
        ∨ ∃ sid d e, s.slotAt sid = some d ∧ st = s.slotTab.set sid (some (d.setDraining e false))) := by
  unfold endDraining
  split
  · split
    · next d hd =>
      split
      · exact ⟨_, rfl, .inr ⟨_, d, _, hd, rfl⟩⟩
      · exact ⟨_, rfl, .inl rfl⟩
    · exact ⟨_, rfl, .inl rfl⟩
  · exact ⟨_, rfl, .inl rfl⟩
  · exact ⟨_, rfl, .inl rfl⟩

/-- The final step of an access in progress (R380). -/
theorem endTask_quiet (s : State) (k : Nat) (rest : List Input) :
    QuietEffect s (endTask { s with inbox := rest } k) := by
  unfold endTask
  split
  · exact .outside id rest _
  · next t _ =>
    obtain ⟨st, hst, hslots⟩ := endDraining_fields { s with inbox := rest, tasks := s.tasks.eraseIdx k } t.work
    rw [hst]
    obtain ⟨is, sts, ts, he, his⟩ := endAccess_fields
      { s with inbox := rest, tasks := s.tasks.eraseIdx k, slotTab := st } t
    rw [he]
    exact QuietEffect.ended (s := s) hslots his _ _ _ _

/-- What a quiet step does (R96, R320, R374, R380). -/
theorem quiet_effect (s : State) : QuietEffect s (quiet s) := by
  unfold quiet
  split
  · next t _ =>
    obtain ⟨is, sts, ts, he, his⟩ := endAccess_fields { s with locked := none } t
    rw [he]
    exact QuietEffect.ended (s := s) (.inl rfl) his _ _ _ _
  · split
    · exact endTask_quiet s 0 s.inbox
    · next k r _ => exact endTask_quiet s k r
    · exact .outside (memPutN_wf _ _ _) _ _
    · exact .outside (memEraseN_wf _ _ _) _ _
    · exact .outside id _ _
    · exact .refl s
    · exact .refl s

/-- What effects, a controller reset and quiet steps keep, every step keeps, where it does not speak of the accesses in
progress, the unit, the inbox and the result. -/
theorem step_keeps {P : State → Prop} {s t : State} (h : step s = .next t) (hs : P s)
    (hframe : ∀ s u l ts ib c r,
      P s → P { s with unit := u, locked := l, tasks := ts, inbox := ib, cont := c, result := r })
    (heffect : ∀ {s t i}, Effect s i t → s.Ready i → P s → P t) (hreset : ∀ {s}, P s → P (controllerReset s))
    (hquiet : ∀ {t}, QuietEffect s t → P t) : P t := by
  rcases step_cases h with ⟨src, i, s1, t1, hf, he, rfl⟩ | rfl
  · have hready := hf.ready
    obtain ⟨u, ts, ib, c, rfl⟩ := hf.fields
    obtain ⟨l, ts', c', r, hset⟩ := settle_fields src t1
    rw [hset]
    refine hframe t1 _ _ _ _ _ _ ?_
    cases hr : isReset i with
    | true =>
      obtain ⟨r', rfl⟩ := exec_reset hr he
      exact hframe _ _ _ _ _ _ _ (hreset (hframe s _ _ _ _ _ _ hs))
    | false => exact heffect (exec_effect hr he) hready (hframe s _ _ _ _ _ _ hs)
  · exact hquiet (quiet_effect s)

end Sys2Proof.Machine
end

section
/-! PROOFS. Every step keeps the tables, rings and Device Slots sound and guest memory canonical (R31 to R49, R96, R200,
R201, R220). -/

namespace Sys2Proof.Machine

open Sys2Proof.Claims

/-! ### Event rings -/

/-- An element of a list, or the default, has what all elements and the default have. -/
theorem getD_of_forall {α : Type} {p : α → Prop} {l : List α} {x : α} (h : ∀ y ∈ l, p y) (hx : p x) (n : Nat) :
    p (l.getD n x) := by
  rw [List.getD_eq_getElem?_getD]
  match hn : l[n]? with
  | none => exact hx
  | some y => exact h y (List.mem_of_getElem? hn)

/-- Replacing an element keeps what all elements and the new one have. -/
theorem forall_mem_set {α : Type} {p : α → Prop} {l : List α} (h : ∀ y ∈ l, p y) {x : α} (hx : p x) (n : Nat) :
    ∀ y ∈ l.set n x, p y := fun y hy => (List.mem_or_eq_of_mem_set hy).elim (h y) (fun e => e ▸ hx)

section
variable {es es' : List EventRing}

/-- A posting keeps the event rings sound (R221). -/
theorem Posted.ok (h : Posted es es') (hes : ∀ e ∈ es, e.ok) : es'.length = es.length ∧ ∀ e ∈ es', e.ok := by
  cases h with
  | dropped => exact ⟨rfl, hes⟩
  | posted hp =>
    exact ⟨List.length_set, forall_mem_set hes (post_ok _ _ _ (getD_of_forall hes eventFresh_ok 0) hp) 0⟩

/-- A load of segments keeps the event rings sound (R220, R283). -/
theorem Loaded.ok {n : Nat} (h : Loaded es n es') (hes : ∀ e ∈ es, e.ok) :
    es'.length = es.length ∧ ∀ e ∈ es', e.ok := by
  cases h with
  | kept => exact ⟨rfl, hes⟩
  | made hs hg => exact ⟨List.length_set, forall_mem_set hes (setSegments_ok hg hs) n⟩

/-- A register write keeps the event rings sound (R283, R285). -/
theorem IntrWrite.ok {n : Nat} {i : Instr} {f : Interrupter → Interrupter} (h : IntrWrite es n i f es')
    (hes : ∀ e ∈ es, e.ok) : es'.length = es.length ∧ ∀ e ∈ es', e.ok := by
  have moved (p : Addr) : ∀ e ∈ es.set n ((es.getD n EventRing.fresh).setDequeuePtr p), e.ok :=
    forall_mem_set hes (eventSetDequeuePtr_ok _ p (getD_of_forall hes eventFresh_ok n)) n
  cases h with
  | erstbaLo _ hl | erstbaHi _ hl => exact hl.ok hes
  | erdpLo _ p | erdpHi _ p => exact ⟨List.length_set, moved p⟩
  | _ => exact ⟨rfl, hes⟩

end

/-- A controller reset leaves an event ring without segments (R461). -/
theorem eventHcrst_ok (e : EventRing) : e.hcrst.ok := by simp [EventRing.ok, EventRing.hcrst]

section
variable {s t : State} {i : Instr}

/-- An instruction keeps the event rings sound (R41). -/
theorem Effect.evRings_ok (h : Effect s i t) (hes : ∀ e ∈ s.evRings, e.ok) :
    t.evRings.length = s.evRings.length ∧ ∀ e ∈ t.evRings, e.ok := by
  cases h with
  | crcrStop _ _ _ hp | portReset _ _ hp | attach _ _ _ _ _ _ hp | detach _ _ hp | command _ hp
    | slotCommand _ _ _ hp | transfer _ _ _ _ hp => exact hp.ok hes
  | intr hw => exact hw.ok hes
  | evt n =>
    exact ⟨List.length_set, forall_mem_set hes (consume_ok _ (getD_of_forall hes eventFresh_ok n)) n⟩
  | _ => exact ⟨rfl, hes⟩

/-! ### The command ring -/

/-- A sound configuration's command ring size is a 32-bit number (R10; log 26). -/
theorem cmdRingSize_lt {c : Config} (h : c.ok = true) : c.cmdRingSize < 2 ^ 32 := by
  simp only [Config.ok, Bool.and_eq_true, decide_eq_true_eq] at h
  omega

/-- An instruction keeps the command ring sound (R40). -/
theorem Effect.cmdRing_ok (h : Effect s i t) (hc : s.cfg.ok = true) (hr : s.cmdRing.ok) : t.cmdRing.ok := by
  cases h with
  | crcrInit _ _ _ hi => exact initialise_ok hi (cmdRingSize_lt hc)
  | cmd b => exact queue_ok _ b hr
  | command | slotCommand => exact advance_ok _ hr
  | _ => exact hr

end

/-! ### Device Slots -/

section
variable {c : Config} {d : DeviceSlot}

/-- The endpoint types of a slot are 0 where those of a slot with the same types are (R48). -/
theorem types_zero {l l' : List EpContext} (h : ∀ e ∈ l, e.type = 0)
    (ht : l'.map EpContext.type = l.map EpContext.type) : ∀ e ∈ l', e.type = 0 := by
  intro e he
  obtain ⟨x, hx, hxe⟩ := List.mem_map.1 (ht ▸ List.mem_map_of_mem he : e.type ∈ l.map EpContext.type)
  exact hxe ▸ h x hx

/-- The number of endpoints of slots with the same types is the same. -/
theorem eps_length {l l' : List EpContext} (ht : l'.map EpContext.type = l.map EpContext.type) :
    l'.length = l.length := by simpa using congrArg List.length ht

/-- New endpoint contexts keep a slot sound where they keep the types and leave endpoint 0 unused (R46, R48). -/
theorem ok_setEps (h : d.ok c) {eps : List EpContext} (ht : eps.map EpContext.type = d.eps.map EpContext.type)
    (h0 : (eps.getD 0 EpContext.fresh).state = .disabled) : { d with eps := eps }.ok c := by
  obtain ⟨hp, hroute, ha, he, hr, hdr, -, htype, hr0, hrings⟩ := h
  exact ⟨hp, hroute, ha, (eps_length ht).trans he, hr, hdr, h0, types_zero htype ht, hr0, hrings⟩

/-- New transfer rings keep a slot sound where they are sound and leave endpoint 0 without a ring (R42). -/
theorem ok_setRings (h : d.ok c) {rings : List Ring} (hl : rings.length = d.rings.length)
    (h0 : (rings.getD 0 Ring.fresh).init = false) (hr : ∀ r ∈ rings, r.ok) : { d with rings := rings }.ok c := by
  obtain ⟨hp, hroute, ha, he, hlen, hdr, hep, htype, -, -⟩ := h
  exact ⟨hp, hroute, ha, he, hl.trans hlen, hdr, hep, htype, h0, hr⟩

/-- The slot state and the control response have no part in a slot's form (R46, R47). -/
theorem ok_setState (h : d.ok c) (st : SlotState) : (d.setState st).ok c := h

theorem ok_setCtlResp (h : d.ok c) (bytes : List Byte) : { d with ctlResp := bytes }.ok c := h

/-- A device address in range keeps a slot sound (R47, R49). -/
theorem ok_setAddress (h : d.ok c) {a : Nat} (ha : a ≤ c.numAddr) : (d.setAddress a).ok c := by
  obtain ⟨hp, hroute, -, hrest⟩ := h
  exact ⟨hp, hroute, ha, hrest⟩

/-- A draining flag set or cleared keeps a slot sound (R52). -/
theorem ok_setDraining (h : d.ok c) (e : Nat) (v : Bool) : (d.setDraining e v).ok c := by
  obtain ⟨hp, hroute, ha, he, hr, hdr, hrest⟩ := h
  exact ⟨hp, hroute, ha, he, hr, List.length_set.trans hdr, hrest⟩

/-- A changed state of an endpoint from 1 on keeps a slot sound (R48). -/
theorem ok_setEpState (h : d.ok c) {e : Nat} (he : e ≠ 0) (st : EpState) : (d.setEpState e st).ok c := by
  refine ok_setEps h (setEpState_types d e st) ?_
  obtain ⟨-, -, -, -, -, -, h0, -⟩ := h
  rw [getD_modify_ne _ _ _ he]
  exact h0

/-- Enabled endpoints from 2 on keep a slot sound (R329). -/
theorem ok_enableEndpoints (h : d.ok c) : d.enableEndpoints.ok c := by
  refine ok_setEps h (enableEndpoints_types d) ?_
  obtain ⟨-, -, -, -, -, -, h0, -⟩ := h
  simp only [DeviceSlot.epState, List.getD_eq_getElem?_getD] at h0 ⊢
  rw [List.getElem?_mapIdx]
  cases hd : d.eps[0]? <;> simp_all [EpContext.fresh]

/-- Disabled endpoints keep a slot sound (R324, R342). -/
theorem ok_disableFrom (h : d.ok c) (lo : Nat) : (d.disableFrom lo).ok c := by
  have hr : ∀ r ∈ (d.disableFrom lo).rings, r.ok := by
    obtain ⟨-, -, -, -, -, -, -, -, -, hrings⟩ := h
    intro r hr
    obtain ⟨k, hk, rfl⟩ := List.mem_mapIdx.1 hr
    split
    · exact uninit_ok _
    · exact hrings _ (List.getElem_mem hk)
  have heps : { d with eps := (d.disableFrom lo).eps }.ok c := by
    refine ok_setEps h (disableFrom_types d lo) ?_
    obtain ⟨-, -, -, -, -, -, h0, -⟩ := h
    simp only [DeviceSlot.epState, List.getD_eq_getElem?_getD, DeviceSlot.disableFrom] at h0 ⊢
    rw [List.getElem?_mapIdx]
    cases hd : d.eps[0]? with
    | none => rfl
    | some x => by_cases hlo : lo ≤ 0 <;> simp_all
  refine ok_setRings heps List.length_mapIdx ?_ hr
  obtain ⟨-, -, -, -, -, -, -, -, h0, -⟩ := h
  simp only [DeviceSlot.ring, List.getD_eq_getElem?_getD] at h0 ⊢
  rw [List.getElem?_mapIdx]
  cases hd : d.rings[0]? with
  | none => rfl
  | some x => by_cases hlo : lo ≤ 0 <;> simp_all

/-- Every transfer ring of a sound slot is sound (R42). -/
theorem ok_ring (h : d.ok c) (e : Nat) : (d.ring e).ok := by
  obtain ⟨-, -, -, -, -, -, -, -, -, hrings⟩ := h
  exact getD_of_forall hrings fresh_ok e

/-- A sound ring put at an endpoint keeps a slot sound: at endpoint 0 an uninitialised one (R42). -/
theorem ok_setRing (h : d.ok c) {e : Nat} {r : Ring} (hr : r.ok) (h0 : e = 0 → r.init = false) :
    (d.setRing e r).ok c := by
  obtain ⟨-, -, -, -, -, -, -, -, hinit, hrings⟩ := id h
  refine ok_setRings h List.length_set ?_ (forall_mem_set hrings hr e)
  rcases getD_set_cases d.rings e 0 r Ring.fresh with hd | ⟨he, hd⟩ <;> rw [hd]
  · exact hinit
  · exact h0 he

/-- The cursor of an uninitialised ring moves in an uninitialised ring (R204). -/
theorem advance_init (r : Ring) : r.advance.init = r.init := by
  unfold Ring.advance
  split <;> rfl

/-- A moved cursor keeps a slot sound (R204). -/
theorem ok_pastTransfer (h : d.ok c) (e : Nat) : (pastTransfer d e).ok c := by
  refine ok_setRing h (advance_ok _ (ok_ring h e)) (fun he => ?_)
  obtain ⟨-, -, -, -, -, -, -, -, h0, -⟩ := h
  rw [advance_init, he]
  exact h0

/-- A controller reset keeps a slot sound (R463). -/
theorem ok_hcrst (h : d.ok c) : d.hcrst.ok c := by
  obtain ⟨hp, hroute, -, he, hr, hdr, -, htype, -, -⟩ := h
  refine ⟨hp, hroute, Nat.zero_le _, (List.length_map _).trans he, (List.length_map _).trans hr, (List.length_map _).trans hdr,
    ?_, types_zero htype (hcrst_types d), ?_, ?_⟩
  · simp only [DeviceSlot.epState, DeviceSlot.hcrst, List.getD_eq_getElem?_getD, List.getElem?_map]
    cases d.eps[0]? <;> rfl
  · simp only [DeviceSlot.ring, DeviceSlot.hcrst, List.getD_eq_getElem?_getD, List.getElem?_map]
    cases d.rings[0]? <;> rfl
  · intro r hr
    obtain ⟨x, -, rfl⟩ := List.mem_map.1 hr
    exact uninit_ok x

/-- A new Device Slot is sound (R46 to R48, R400). -/
theorem create_ok {p dev serial : Nat} {sp : Speed} (hp : p < c.maxPorts) :
    (DeviceSlot.create c p dev serial sp).ok c := by
  refine ⟨hp, rfl, Nat.zero_le _, List.length_replicate, List.length_replicate, List.length_replicate,
    getD_of_forall (p := fun e : EpContext => e.state = .disabled) ?_ rfl 0, ?_,
    getD_of_forall (p := fun r : Ring => r.init = false) ?_ rfl 0, ?_⟩
  · intro e he; rw [List.eq_of_mem_replicate he]; rfl
  · intro e he; rw [List.eq_of_mem_replicate he]; rfl
  · intro r hr; rw [List.eq_of_mem_replicate hr]; rfl
  · intro r hr; rw [List.eq_of_mem_replicate hr]; exact fresh_ok

/-- A slot change keeps a slot sound; a transfer TRB does on an endpoint from 1 on (R46, R47, R48). -/
theorem SlotChange.ok {u : Consumer} {used used' : List Bool} {sid : Nat} {d' : DeviceSlot} {i : Instr}
    (h : SlotChange c u used sid d i d' used') (hu : isTrb i = true → ∀ e, u = .transfer sid e → e ≠ 0)
    (hd : d.ok c) : d'.ok c := by
  have pos {e : Nat} (he : 1 ≤ e) {r : Ring} : e = 0 → r.init = false := fun h0 => by omega
  have zero : 0 ≤ c.numAddr := Nat.zero_le _
  cases h with
  | enable => exact ok_setState hd _
  | disable => exact ok_setCtlResp (ok_disableFrom (ok_setState (ok_setAddress hd zero) _) 1) []
  | address _ ha => exact ok_setEpState (ok_setState (ok_setAddress hd ha.2) _) Nat.one_ne_zero _
  | configure => exact ok_enableEndpoints (ok_setState hd _)
  | resetEndpoint he => exact ok_setEpState hd (Nat.one_le_iff_ne_zero.1 he) _
  | stopEndpoint he => exact ok_setEpState hd (Nat.one_le_iff_ne_zero.1 he) _
  | setDequeue he => exact ok_setRing hd (setDequeuePtr_ok _ _ _ (ok_ring hd _)) (pos he)
  | resetDevice => exact ok_setCtlResp (ok_disableFrom (ok_setState (ok_setAddress hd zero) _) 2) []
  | transfer ht hue h =>
    have hpast := ok_pastTransfer hd
    cases h with
    | consumed => exact hpast _
    | failed => exact ok_setEpState (hpast _) (hu ht _ hue) _
    | answered => exact ok_setCtlResp (hpast _) _
  | xfer he => exact ok_setRing hd (queue_ok _ _ (ok_ring hd _)) (pos he)
  | @xinit e base size r he h => exact ok_setRing hd (initialise_ok h size.isLt) (pos he)

end

/-! ### The tables -/

section
variable {s t : State} {i : Instr}

/-- An instruction keeps the slot table's size, its entry 0 and its Device Slots (R45, R46). -/
theorem TableChange.slots_ok {T : List (Option DeviceSlot)} {U : List Bool} (h : TableChange s i T U)
    (hu : isTrb i = true → ∀ sid e, s.unit = .transfer sid e → e ≠ 0) (h0 : s.entry 0 = none)
    (hok : ∀ o ∈ s.slotTab, ∀ d ∈ o, d.ok s.cfg) :
    T.length = s.slotTab.length ∧ T.getD 0 none = none ∧ ∀ o ∈ T, ∀ d ∈ o, d.ok s.cfg := by
  have slot_ok {sid : Nat} {d : DeviceSlot} (hd : s.slotAt sid = some d) : d.ok s.cfg :=
    hok _ (List.mem_of_getElem? ((slotAt_spec s sid d).1 hd).2.2) d rfl
  have replaced {sid : Nat} {o : Option DeviceSlot} (hs : 1 ≤ sid) (ho : ∀ d ∈ o, d.ok s.cfg) :
      (s.slotTab.set sid o).length = s.slotTab.length ∧ (s.slotTab.set sid o).getD 0 none = none
        ∧ ∀ x ∈ s.slotTab.set sid o, ∀ d ∈ x, d.ok s.cfg :=
    ⟨List.length_set, (getD_set_ne _ _ _ (by omega)).trans h0, forall_mem_set hok ho sid⟩
  cases h with
  | same => exact ⟨rfl, h0, hok⟩
  | slot hd hc =>
    refine replaced ((slotAt_spec _ _ _).1 hd).1 (fun d' e => ?_)
    cases e
    exact hc.ok (fun ht e => hu ht _ e) (slot_ok hd)
  | drain _ hd =>
    refine replaced ((slotAt_spec _ _ _).1 hd).1 (fun d' e => ?_)
    cases e
    exact ok_setDraining (slot_ok hd) _ _
  | attach serial sp hs hp =>
    refine replaced hs.1 (fun d' e => ?_)
    cases e
    exact create_ok hp
  | detach hd => exact replaced ((slotAt_spec _ _ _).1 hd).1 (fun d' e => nomatch e)

/-- Freeing an address keeps the bitmap's size and address 0 (R49, R407). -/
theorem released_keeps (c : Config) (used : List Bool) (a : Nat) :
    (released c used a).length = used.length ∧ (released c used a).getD 0 false = used.getD 0 false := by
  unfold released
  split
  · exact ⟨List.length_set, getD_set_ne _ _ _ (by omega)⟩
  · exact ⟨rfl, rfl⟩

/-- An instruction keeps the address bitmap's size and address 0 (R49). -/
theorem TableChange.bitmap_keeps {T : List (Option DeviceSlot)} {U : List Bool} (h : TableChange s i T U) :
    U.length = s.addrUsed.length ∧ U.getD 0 false = s.addrUsed.getD 0 false := by
  cases h with
  | slot _ hc =>
    cases hc with
    | disable | resetDevice => exact released_keeps _ _ _
    | address _ ha => exact ⟨List.length_set, getD_set_ne _ _ _ (by omega)⟩
    | _ => exact ⟨rfl, rfl⟩
  | detach => exact released_keeps _ _ _
  | _ => exact ⟨rfl, rfl⟩

/-- An instruction keeps the sizes of the register tables (R35, R37, R38). -/
theorem Effect.lengths (h : Effect s i t) :
    t.ports.length = s.ports.length ∧ t.intrs.length = s.intrs.length ∧ t.db.length = s.db.length := by
  have raised {is : List Interrupter} (h : Raised s.intrs is) : is.length = s.intrs.length := by
    cases h <;> simp
  cases h with
  | portReset _ _ _ hr => exact ⟨by simp, raised hr, rfl⟩
  | attach _ _ _ _ _ _ _ hr => exact ⟨by simp, raised hr, rfl⟩
  | detach _ _ _ hr => exact ⟨by simp, raised hr, rfl⟩
  | portsc | portpmsc => exact ⟨by simp, rfl, rfl⟩
  | intr => exact ⟨rfl, by simp, rfl⟩
  | doorbell | commandDrain | atomicDrain | splitDrain => exact ⟨rfl, rfl, by simp⟩
  | _ => exact ⟨rfl, rfl, rfl⟩

/-- A Running endpoint of a sound slot is no endpoint 0 (R46, R48). -/
theorem ne_zero_of_running {c : Config} {d : DeviceSlot} {e : Nat} (h : d.ok c) (hr : d.epState e = .running) :
    e ≠ 0 := by
  rintro rfl
  obtain ⟨-, -, -, -, -, -, h0, -⟩ := h
  rw [h0] at hr
  cases hr

/-- A Device Slot at a usable id of a sound state is sound (R46). -/
theorem slotAt_ok (hs : s.Shape) {sid : Nat} {d : DeviceSlot} (hd : s.slotAt sid = some d) : d.ok s.cfg := by
  obtain ⟨-, -, -, -, -, -, -, -, -, -, -, hslots⟩ := hs
  exact hslots _ (List.mem_of_getElem? ((slotAt_spec s sid d).1 hd).2.2) d rfl

/-- An instruction keeps the shape. -/
theorem Effect.shape (h : Effect s i t) (hready : s.Ready i) (hs : s.Shape) : t.Shape := by
  have hu : isTrb i = true → ∀ sid e, s.unit = .transfer sid e → e ≠ 0 := fun ht sid e hu =>
    let ⟨_, hd, hrun⟩ := hready ht sid e hu
    ne_zero_of_running (slotAt_ok hs hd) hrun
  obtain ⟨hc, hp, hi, hev, hdb, hst, hau, h0, ha0, hcmd, hevok, hslots⟩ := hs
  obtain ⟨hcfg, -, -⟩ := h.fixed
  obtain ⟨lp, li, ldb⟩ := h.lengths
  obtain ⟨lev, hev'⟩ := h.evRings_ok hevok
  obtain ⟨lst, h0', hslots'⟩ := h.table.slots_ok hu h0 hslots
  obtain ⟨lau, ha0'⟩ := h.table.bitmap_keeps
  simp only [State.Shape, hcfg]
  exact ⟨hc, lp.trans hp, li.trans hi, lev.trans hev, ldb.trans hdb, lst.trans hst, lau.trans hau, h0',
    ha0'.trans ha0, h.cmdRing_ok hc hcmd, hev', hslots'⟩

/-- A controller reset keeps the shape (R461). -/
theorem controllerReset_shape (hs : s.Shape) : (controllerReset s).Shape := by
  obtain ⟨hc, hp, hi, hev, hdb, hst, hau, h0, -, -, -, hslots⟩ := hs
  refine ⟨hc, (List.length_map _).trans hp, (List.length_map _).trans hi, (List.length_map _).trans hev,
    (List.length_map _).trans hdb, (List.length_map _).trans hst, (List.length_map _).trans hau, ?_, ?_, fresh_ok, ?_, ?_⟩
  · rw [controllerReset_entry, h0]; rfl
  · exact getD_of_forall (p := fun b => b = false) (by simp [controllerReset]) rfl 0
  · intro e he
    obtain ⟨x, -, rfl⟩ := List.mem_map.1 he
    exact eventHcrst_ok x
  · intro o ho d hd
    obtain ⟨x, hx, rfl⟩ := List.mem_map.1 ho
    obtain ⟨y, hy, rfl⟩ := Option.map_eq_some_iff.1 hd
    exact ok_hcrst (hslots x hx y hy)

/-- A quiet step keeps the shape (R320, R374, R380). -/
theorem QuietEffect.shape (h : QuietEffect s t) (hs : s.Shape) : t.Shape := by
  cases h with
  | outside => exact hs
  | @ended st is sts hst his =>
    obtain ⟨hc, hp, hi, hev, hdb, hlen, hau, h0, ha0, hcmd, hevok, hslots⟩ := hs
    have li : is.length = s.cfg.maxIntrs := by
      rcases his with ⟨rfl, -⟩ | ⟨rfl, -⟩
      · exact hi
      · exact (List.length_modify _ _ _).trans hi
    rcases hst with rfl | ⟨sid, d, e, hd, rfl⟩
    · exact ⟨hc, hp, li, hev, hdb, hlen, hau, h0, ha0, hcmd, hevok, hslots⟩
    · obtain ⟨hsid, -, hget⟩ := (slotAt_spec s sid d).1 hd
      have hd' : ∀ x ∈ some (d.setDraining e false), x.ok s.cfg := fun x hx =>
        Option.some.inj hx ▸ ok_setDraining (hslots _ (List.mem_of_getElem? hget) d rfl) e false
      exact ⟨hc, hp, li, hev, hdb, List.length_set.trans hlen, hau, (getD_set_ne _ _ _ (by omega)).trans h0, ha0,
        hcmd, hevok, forall_mem_set hslots hd' sid⟩

end

/-- Every step keeps the shape. -/
theorem step_shape {s t : State} (h : step s = .next t) (hs : s.Shape) : t.Shape :=
  step_keeps (P := State.Shape) h hs (fun _ _ _ _ _ _ _ h => h) Effect.shape controllerReset_shape
    (fun hq => hq.shape hs)

/-- Every step keeps the configuration (R31; log 1). -/
theorem step_cfg {s t : State} (h : step s = .next t) : t.cfg = s.cfg :=
  step_keeps (P := fun x => x.cfg = s.cfg) h rfl (fun _ _ _ _ _ _ _ h => h) (fun he _ hs => he.fixed.1.trans hs) id
    (fun hq => by cases hq <;> rfl)

/-- An instruction keeps guest memory canonical (log 8). -/
theorem Effect.memory {s t : State} {i : Instr} (h : Effect s i t) (hm : s.MemoryOk) : t.MemoryOk := by
  cases h with
  | transfer _ _ _ _ _ hst =>
    cases hst with
    | nothing => exact hm
    | bytes a bs => exact memPutN_wf bs _ a hm
  | _ => exact hm

/-- A quiet step keeps guest memory canonical (log 8). -/
theorem QuietEffect.memory {s t : State} (h : QuietEffect s t) (hm : s.MemoryOk) : t.MemoryOk := by
  cases h with
  | outside hw => exact hw hm
  | ended => exact hm

/-- Every step keeps guest memory canonical (log 8). -/
theorem step_memory {s t : State} (h : step s = .next t) (hm : s.MemoryOk) : t.MemoryOk :=
  step_keeps (P := State.MemoryOk) h hm (fun _ _ _ _ _ _ _ h => h) (fun he _ => he.memory) id (fun hq => hq.memory hm)

/-- Settles O55: the configuration, the shape and guest memory, each by what a step can do. -/
theorem everyStepKeepsShapeAndMemory : Obligations.EveryStepKeepsShapeAndMemory :=
  fun _ _ h => ⟨step_cfg h, step_shape h, step_memory h⟩

end Sys2Proof.Machine
end

section
/-! PROOFS. Every step keeps the address invariant: an address is marked exactly where one Device Slot has it (R49, R327,
R406, R407). -/

namespace Sys2Proof.Machine

open Sys2Proof.Claims

/-! ### One entry with another address -/

/-- A slot has an address exactly where it is Addressed or Configured (R327). -/
def DeviceSlot.AddressOk (d : DeviceSlot) : Prop :=
  (d.ctx.state = .addressed ∨ d.ctx.state = .configured) ↔ d.ctx.deviceAddress ≠ 0

/-- How the address of one entry and the bitmap change together, from address x and bitmap `used`: the address stays, is
freed, or is a free one, marked (R406, R407). -/
inductive AddressMove (c : Config) (used : List Bool) (x : Nat) : Nat → List Bool → Prop where
  | kept : AddressMove c used x x used
  | freed : AddressMove c used x 0 (released c used x)
  | assigned {a : Nat} (hx : x = 0) (ha : 1 ≤ a ∧ a ≤ c.numAddr) (hfree : used.getD a true = false) :
      AddressMove c used x a (used.set a true)

/-- A slot change moves the slot's address, if at all, with the bitmap (R324, R326, R342). -/
theorem SlotChange.addressMove {c : Config} {u : Consumer} {used used' : List Bool} {sid : Nat} {d d' : DeviceSlot}
    {i : Instr} (h : SlotChange c u used sid d i d' used') (hd : d.AddressOk) :
    AddressMove c used d.ctx.deviceAddress d'.ctx.deviceAddress used' ∧ d'.AddressOk := by
  unfold DeviceSlot.AddressOk at hd ⊢
  cases h with
  | enable h => exact ⟨.kept, by simpa [h, DeviceSlot.setState] using hd⟩
  | disable | resetDevice =>
    exact ⟨.freed, by simp [DeviceSlot.disableFrom, DeviceSlot.setState, DeviceSlot.setAddress]⟩
  | address h ha hfree =>
    have hx : d.ctx.deviceAddress = 0 := by simpa [h.1, h.2] using hd
    exact ⟨.assigned hx ha hfree,
      by simp [DeviceSlot.setEpState, DeviceSlot.setState, DeviceSlot.setAddress]; omega⟩
  | configure h =>
    exact ⟨.kept, by simpa [h, DeviceSlot.enableEndpoints, DeviceSlot.setState] using hd⟩
  | transfer _ _ h => cases h <;> exact ⟨.kept, hd⟩
  | _ => exact ⟨.kept, hd⟩

/-- Freeing an address clears its mark and no other (R407). -/
theorem released_marked (c : Config) {used : List Bool} {x : Nat} (hlen : used.length = c.numAddr + 1)
    (h0 : used.getD 0 false = false) (hx : x ≤ c.numAddr) (a : Nat) :
    (released c used x).getD a false = true ↔ used.getD a false = true ∧ a ≠ x := by
  unfold released
  by_cases hax : a = x
  · subst hax
    split
    · rw [getD_set_self _ _ _ (by omega)]
      simp only [ne_eq, not_true_eq_false, and_false, Bool.false_eq_true]
    · next hn =>
      obtain rfl : a = 0 := by omega
      simp only [h0, ne_eq, not_true_eq_false, and_false, Bool.false_eq_true]
  · split
    · rw [getD_set_ne _ _ _ (Ne.symm hax)]
      exact (and_iff_left hax).symm
    · exact (and_iff_left hax).symm

/-- What a move makes of each address: the new one is marked, the old one is not unless it is the new one, and every other
is as before. -/
theorem AddressMove.marked {c : Config} {used used' : List Bool} {x y : Nat} (h : AddressMove c used x y used')
    (hlen : used.length = c.numAddr + 1) (h0 : used.getD 0 false = false) (hx : x ≠ 0 → used.getD x false = true)
    (hxle : x ≤ c.numAddr) (a : Nat) :
    used'.getD a false = true ↔ (a = y ∧ a ≠ 0) ∨ (used.getD a false = true ∧ a ≠ x) := by
  have ne_zero (h : used.getD a false = true) : a ≠ 0 := by
    rintro rfl
    cases h0.symm.trans h
  cases h with
  | kept =>
    by_cases hax : a = x
    · subst hax
      exact ⟨fun h => .inl ⟨rfl, ne_zero h⟩, fun h => h.elim (fun h => hx h.2) (fun h => absurd rfl h.2)⟩
    · exact ⟨fun h => .inr ⟨h, hax⟩, fun h => h.elim (fun h => absurd h.1 hax) (fun h => h.1)⟩
  | freed =>
    rw [released_marked c hlen h0 hxle]
    exact ⟨.inr, fun h => h.elim (fun h => absurd h.1 h.2) id⟩
  | assigned hx0 ha hfree =>
    subst hx0
    by_cases hay : a = y
    · subst hay
      rw [getD_set_self _ _ _ (by omega)]
      exact ⟨fun _ => .inl ⟨rfl, by omega⟩, fun _ => rfl⟩
    · rw [getD_set_ne _ _ _ (Ne.symm hay)]
      exact ⟨fun h => .inr ⟨h, ne_zero h⟩, fun h => h.elim (fun h => absurd h.1 hay) (fun h => h.1)⟩

/-- A newly assigned address was free (R406). -/
theorem AddressMove.fresh {c : Config} {used used' : List Bool} {x y : Nat} (h : AddressMove c used x y used')
    (hlen : used.length = c.numAddr + 1) (hy : y ≠ 0) (hne : y ≠ x) : used.getD y false = false ∧ y ≤ c.numAddr := by
  cases h with
  | kept => exact absurd rfl hne
  | freed => exact absurd rfl hy
  | assigned _ ha hfree =>
    rw [List.getD_eq_getElem _ _ (by omega)] at hfree ⊢
    exact ⟨hfree, ha.2⟩

/-! ### The address invariant -/

/-- The address an entry holds (R47). -/
def addressOf (o : Option DeviceSlot) : Nat := o.elim 0 (fun d => d.ctx.deviceAddress)

theorem addressAt_eq (s : State) (sid : Nat) : s.addressAt sid = addressOf (s.entry sid) := by
  unfold State.addressAt addressOf
  cases s.entry sid <;> rfl

/-- The address of an entry that holds a Device Slot (R47). -/
theorem addressAt_of_entry {s : State} {sid : Nat} {d : DeviceSlot} (h : s.entry sid = some d) :
    s.addressAt sid = d.ctx.deviceAddress := by rw [addressAt_eq, h]; rfl

/-- In a sound state no entry's address is above NUM_ADDR (R49). -/
theorem addressAt_le {s : State} (hs : s.Shape) (sid : Nat) : s.addressAt sid ≤ s.cfg.numAddr := by
  obtain ⟨-, -, -, -, -, -, -, -, -, -, -, hslots⟩ := hs
  rw [addressAt_eq]
  refine getD_of_forall (p := fun o => addressOf o ≤ s.cfg.numAddr) (fun o ho => ?_) (Nat.zero_le _) sid
  cases o with
  | none => exact Nat.zero_le _
  | some d => exact (hslots _ ho d rfl).2.2.1

section
variable {s t : State}

/-- Replacing one entry keeps the address invariant where its address moves with the bitmap (R49, R327). -/
theorem addressesOk_of_move (hs : s.Shape) (ha : s.AddressesOk) {k : Nat} {o : Option DeviceSlot}
    (hk : k < s.slotTab.length) (hcfg : t.cfg = s.cfg) (ht : t.slotTab = s.slotTab.set k o)
    (hm : AddressMove s.cfg s.addrUsed (s.addressAt k) (addressOf o) t.addrUsed)
    (ho : ∀ d ∈ o, d.AddressOk) : t.AddressesOk := by
  obtain ⟨hmark, hinj, hstate⟩ := ha
  have hle := addressAt_le hs
  obtain ⟨-, -, -, -, -, -, hlen, -, h0, -⟩ := hs
  have hlenT : t.slotTab.length = s.slotTab.length := by rw [ht, List.length_set]
  have same {i : Nat} (hi : k ≠ i) : t.addressAt i = s.addressAt i := by
    rw [addressAt_eq, addressAt_eq, State.entry, ht, getD_set_ne _ _ _ hi, State.entry]
  have new : t.addressAt k = addressOf o := by
    rw [addressAt_eq, State.entry, ht, getD_set_self _ _ _ hk]
  have marked_of {i : Nat} (hi : i < s.slotTab.length) (hne : s.addressAt i ≠ 0) :
      s.addrUsed.getD (s.addressAt i) false = true :=
    (hmark _ (List.mem_range.2 (Nat.lt_succ_of_le (hle i)))).2 ⟨hne, i, List.mem_range.2 hi, rfl⟩
  have hmarked := hm.marked hlen h0 (fun hx => marked_of hk hx) (hle k)
  have other {j : Nat} (hj : j < s.slotTab.length) (hjk : k ≠ j) (hne : s.addressAt j ≠ 0) :
      s.addressAt j ≠ addressOf o := by
    intro he
    by_cases hx : addressOf o = s.addressAt k
    · exact hjk (hinj k (List.mem_range.2 hk) j (List.mem_range.2 hj) (hx.symm.trans he.symm) (by omega))
    · have hfree := (hm.fresh hlen (by omega) hx).1
      rw [← he, marked_of hj hne] at hfree
      cases hfree
  refine ⟨fun a hale => ?_, fun i hi j hj he hne => ?_, fun x hx d hd => ?_⟩
  · rw [hcfg, List.mem_range] at hale
    rw [hmarked a]
    constructor
    · rintro (⟨rfl, hne⟩ | ⟨hused, hx⟩)
      · exact ⟨hne, k, List.mem_range.2 (hlenT ▸ hk), new⟩
      · obtain ⟨hne, i, hi, rfl⟩ := (hmark a (List.mem_range.2 hale)).1 hused
        exact ⟨hne, i, hlenT ▸ hi, same (fun hki => hx (by rw [hki]))⟩
    · rintro ⟨hne, i, hi, rfl⟩
      rw [hlenT, List.mem_range] at hi
      by_cases hki : k = i
      · subst hki
        exact .inl ⟨new, hne⟩
      · rw [same hki] at hne ⊢
        refine .inr ⟨marked_of hi hne, fun hx => hki ?_⟩
        exact hinj k (List.mem_range.2 hk) i (List.mem_range.2 hi) hx.symm (hx ▸ hne)
  · rw [hlenT, List.mem_range] at hi hj
    by_cases hki : k = i <;> by_cases hkj : k = j
    · exact hki.symm.trans hkj
    · subst hki
      rw [new, same hkj] at he
      rw [new, he] at hne
      exact absurd he.symm (other hj hkj hne)
    · subst hkj
      rw [new, same hki] at he
      rw [same hki] at hne
      exact absurd he (other hi hki hne)
    · rw [same hki, same hkj] at he
      rw [same hki] at hne
      exact hinj i (List.mem_range.2 hi) j (List.mem_range.2 hj) he hne
  · rcases List.mem_or_eq_of_mem_set (ht ▸ hx) with h | rfl
    · exact hstate x h d hd
    · exact ho d hd

/-- A change of the slot table and the bitmap keeps the address invariant (R49, R327). -/
theorem TableChange.addresses {i : Instr} (h : TableChange s i t.slotTab t.addrUsed) (hcfg : t.cfg = s.cfg)
    (hs : s.Shape) (ha : s.AddressesOk) : t.AddressesOk := by
  have slot_ok {sid : Nat} {d : DeviceSlot} (hd : s.slotAt sid = some d) : d.AddressOk :=
    ha.2.2 _ (List.mem_of_getElem? ((slotAt_spec s sid d).1 hd).2.2) d rfl
  have inTable {sid : Nat} (h : sid ≤ s.cfg.maxSlots) : sid < s.slotTab.length := by
    obtain ⟨-, -, -, -, -, hlen, -⟩ := hs
    omega
  generalize hT : t.slotTab = T, hU : t.addrUsed = U at h
  cases h with
  | same =>
    unfold State.AddressesOk State.addressAt State.entry at ha ⊢
    rw [hT, hU, hcfg]
    exact ha
  | @slot _ sid d d' _ hd hc =>
    have hde := entry_of_slotAt hd
    obtain ⟨hm, hok⟩ := hc.addressMove (slot_ok hd)
    refine addressesOk_of_move hs ha (entry_lt hde) hcfg hT ?_ (fun x hx => Option.some.inj hx ▸ hok)
    rw [addressAt_of_entry hde, hU]
    exact hm
  | @drain k v d _ hd =>
    have hde := entry_of_slotAt hd
    have hok : (d.setDraining (v.toNat % 256) true).AddressOk := show d.AddressOk from slot_ok hd
    refine addressesOk_of_move hs ha (entry_lt hde) hcfg hT ?_ (fun x hx => Option.some.inj hx ▸ hok)
    rw [addressAt_of_entry hde, hU]
    exact .kept
  | attach serial sp hfree =>
    refine addressesOk_of_move hs ha (inTable hfree.2.1) hcfg hT ?_ (fun x hx => Option.some.inj hx ▸ ?_)
    · rw [addressAt_eq, hfree.2.2, hU]
      exact .kept
    · simp [DeviceSlot.AddressOk, DeviceSlot.create]
  | @detach sid d hd =>
    have hde := entry_of_slotAt hd
    refine addressesOk_of_move hs ha (entry_lt hde) hcfg hT ?_ (fun x hx => nomatch hx)
    rw [addressAt_of_entry hde, hU]
    exact .freed

/-- A controller reset frees every address (R461, R463). -/
theorem controllerReset_addresses (s : State) : (controllerReset s).AddressesOk := by
  have haddr (i : Nat) : (controllerReset s).addressAt i = 0 := by
    rw [addressAt_eq, controllerReset_entry]
    cases s.entry i <;> rfl
  refine ⟨fun a _ => ?_, fun i _ j _ _ hne => absurd (haddr i) hne, fun o ho d hd => ?_⟩
  · have hfree : (controllerReset s).addrUsed.getD a false = false :=
      getD_of_forall (p := fun b => b = false) (by simp [controllerReset]) rfl a
    rw [hfree]
    exact ⟨nofun, fun ⟨hne, i, _, hi⟩ => absurd ((haddr i).symm.trans hi).symm hne⟩
  · obtain ⟨x, -, rfl⟩ := List.mem_map.1 ho
    obtain ⟨y, -, rfl⟩ := Option.map_eq_some_iff.1 hd
    simp [DeviceSlot.hcrst]

/-- A quiet step keeps the address invariant (R380). -/
theorem QuietEffect.addresses (h : QuietEffect s t) (hs : s.Shape) (ha : s.AddressesOk) : t.AddressesOk := by
  cases h with
  | outside => exact ha
  | ended hst his =>
    rcases hst with rfl | ⟨sid, d, e, hd, rfl⟩
    · exact ha
    · have hde := entry_of_slotAt hd
      refine addressesOk_of_move hs ha (entry_lt hde) rfl rfl ?_ (fun x hx => Option.some.inj hx ▸ ?_)
      · rw [addressAt_of_entry hde]
        exact .kept
      · exact ha.2.2 _ (List.mem_of_getElem? ((slotAt_spec s sid d).1 hd).2.2) d rfl

end

/-- Settles O56: each change of an entry moves its address with the bitmap; a controller reset frees all. -/
theorem everyStepKeepsTheAddresses : Obligations.EveryStepKeepsTheAddresses := by
  intro s t hs ha h
  exact (step_keeps (P := fun x => x.Shape ∧ x.AddressesOk) h ⟨hs, ha⟩ (fun _ _ _ _ _ _ _ h => h)
    (fun he hready hs => ⟨he.shape hready hs.1, he.table.addresses he.fixed.1 hs.1 hs.2⟩)
    (fun hs => ⟨controllerReset_shape hs.1, controllerReset_addresses _⟩)
    (fun hq => ⟨hq.shape hs, hq.addresses hs ha⟩)).2

end Sys2Proof.Machine
end

section
/-! PROOFS. Every step keeps the ports and the slot table naming each other (R35, R45, R46, R162, R400, R403). -/

namespace Sys2Proof.Machine

open Sys2Proof.Claims

/-! ### Lists and tables -/

/-- Modifying an element keeps what all elements have and the modification keeps. -/
theorem forall_mem_modify {α : Type} {p : α → Prop} {l : List α} {f : α → α} (h : ∀ y ∈ l, p y)
    (hf : ∀ y, p y → p (f y)) (n : Nat) : ∀ y ∈ l.modify n f, p y := by
  intro y hy
  obtain ⟨k, hk, rfl⟩ := List.getElem_of_mem hy
  rw [List.getElem_modify]
  have hmem := h _ (List.getElem_mem (by simpa using hk : k < l.length))
  split
  · exact hf _ hmem
  · exact hmem

/-- What a map keeps of each element it keeps of the list. -/
theorem getD_map_keeps {α β : Type} (φ : α → β) (l : List α) (n : Nat) (f : α → α) (x : α)
    (h : ∀ y, φ (f y) = φ y) : φ ((l.map f).getD n x) = φ (l.getD n x) := by
  simp only [List.getD_eq_getElem?_getD, List.getElem?_map]
  cases l[n]? with
  | none => rfl
  | some y => exact h y

section
variable {s t : State}

/-- What a changed Device Slot has in common with the one before it the entries have in common (R45). -/
theorem entry_map_of_set {β : Type} (φ : DeviceSlot → β) {k : Nat} {d d' : DeviceSlot} (hd : s.slotAt k = some d)
    (ht : t.slotTab = s.slotTab.set k (some d')) (hφ : φ d' = φ d) (sid : Nat) :
    (t.entry sid).map φ = (s.entry sid).map φ := by
  rcases entry_set_cases ht sid with e | ⟨rfl, e⟩
  · rw [e]
  · rw [e, entry_of_slotAt hd, Option.map_some, hφ, Option.map_some]

/-- What a controller reset keeps of a Device Slot it keeps of the entries (R463). -/
theorem entry_map_controllerReset {β : Type} (φ : DeviceSlot → β) (hφ : ∀ d, φ d.hcrst = φ d) (sid : Nat) :
    ((controllerReset s).entry sid).map φ = (s.entry sid).map φ := by
  rw [controllerReset_entry, Option.map_map]
  congr 1
  exact funext hφ

/-- An entry of a table that has something in common with another's comes from there. -/
theorem entry_of_map {β : Type} {φ : DeviceSlot → β} {sid : Nat}
    (h : (t.entry sid).map φ = (s.entry sid).map φ) {d : DeviceSlot} (hd : t.entry sid = some d) :
    ∃ x, s.entry sid = some x ∧ φ x = φ d := by
  rw [hd, Option.map_some] at h
  exact Option.map_eq_some_iff.1 h.symm

end

/-! ### The ports -/

/-- A PORTSC write keeps a port's form (R272). -/
theorem portWrite_ok {q : Port} (v : Word) (h : q.ok) : (q.write v).ok := by
  obtain ⟨hpp, hpec, hwrc, hccs, hped, hpls, hoff⟩ := h
  refine ⟨hpp, by simp [Port.write, w1c, hpec], by simp [Port.write, w1c, hwrc], hccs, fun h => hped ?_, hpls, hoff⟩
  have hw : (q.ped && !bit v 1) = true := h
  exact (Bool.and_eq_true_iff.1 hw).1

/-- A port reset keeps a port's form (R273). -/
theorem portReset_ok {q : Port} (h : q.ok) : q.reset.ok := by
  obtain ⟨hpp, hpec, hwrc, hccs, hped, hpls, hoff⟩ := h
  unfold Port.reset
  split
  · next hc => exact ⟨hpp, hpec, hwrc, hccs, fun _ => ⟨hc, rfl⟩, fun _ => .inl rfl, fun h => nomatch hc.symm.trans h⟩
  · exact ⟨hpp, hpec, hwrc, hccs, hped, hpls, hoff⟩

/-- An attach gives a port the form of a connected one (R400). -/
theorem portAttach_ok {q : Port} (sp : Speed) (sid : Nat) (h : q.ok) : (q.attach sp sid).ok := by
  obtain ⟨hpp, hpec, hwrc, -⟩ := h
  refine ⟨hpp, hpec, hwrc, rfl, fun hped => ⟨rfl, if_pos (of_decide_eq_true hped)⟩, fun _ => ?_, nofun⟩
  by_cases hs : sp = .super
  · exact .inl (if_pos hs)
  · exact .inr (if_neg hs)

/-- A detach gives a port the form of an empty one (R403). -/
theorem portDetach_ok {q : Port} (h : q.ok) : q.detach.ok := by
  obtain ⟨hpp, hpec, hwrc, -⟩ := h
  exact ⟨hpp, hpec, hwrc, rfl, nofun, nofun, fun _ => ⟨rfl, rfl⟩⟩

/-- A controller reset keeps a port's form (R461). -/
theorem portHcrst_ok {q : Port} (h : q.ok) : q.hcrst.ok := by
  obtain ⟨-, -, -, hccs, -, -, hoff⟩ := h
  exact ⟨rfl, rfl, rfl, hccs, nofun, fun hc => .inr (if_pos hc),
    fun hc => ⟨if_neg (by simpa [Port.hcrst] using hc), (hoff hc).2⟩⟩

/-- What a port and a slot know of each other: the slot a port names and the speed it shows (R35). -/
def Port.named (q : Port) : Option Nat × BitVec 4 := (q.slot, q.speed)

/-- What a slot gives its port: the port's number and the device's speed (R46, R47). -/
def DeviceSlot.plugged (d : DeviceSlot) : Nat × Speed := (d.port, d.ctx.speed)

/-- Setting port bits that name no slot leaves what the ports name (R272, R273, R274). -/
theorem port_named_of_modify {s t : State} {n : Nat} {f : Port → Port} (ht : t.ports = s.ports.modify n f)
    (hf : ∀ q, (f q).named = q.named) (p : Nat) : (t.port p).named = (s.port p).named := by
  rw [State.port, ht]
  exact getD_modify_keeps Port.named _ _ _ _ _ hf

section
variable {s t : State}

/-- States whose ports and slots know the same of each other agree on the invariant (R35, R45, R46). -/
theorem portsOk_of_same (h : s.PortsOk) (hok : ∀ q ∈ t.ports, q.ok) (hlen : t.ports.length = s.ports.length)
    (hport : ∀ p, (t.port p).named = (s.port p).named)
    (hslot : ∀ sid, (t.entry sid).map DeviceSlot.plugged = (s.entry sid).map DeviceSlot.plugged) : t.PortsOk := by
  obtain ⟨-, hnames, hback⟩ := h
  have slot_eq (p : Nat) : (t.port p).slot = (s.port p).slot := (Prod.mk.inj (hport p)).1
  refine ⟨hok, fun p hp sid hsid => ?_, fun sid _ d hd => ?_⟩
  · obtain ⟨d, hd, hdp, hspeed⟩ := hnames p (hlen ▸ hp) sid (slot_eq p ▸ hsid)
    obtain ⟨d', hd', he⟩ := entry_of_map (hslot sid).symm hd
    obtain ⟨hp', hs'⟩ := Prod.mk.inj he
    exact ⟨d', hd', hp'.trans hdp, (Prod.mk.inj (hport p)).2.trans (hspeed.trans (by rw [hs']))⟩
  · obtain ⟨d', hd', he⟩ := entry_of_map (hslot sid) hd
    obtain ⟨hp', -⟩ := Prod.mk.inj he
    rw [slot_eq, ← hp']
    exact hback sid (List.mem_range.2 (entry_lt hd')) d' hd'

/-- A port's number is in the table where the port names a slot (R35). -/
theorem port_lt_of_slot {p sid : Nat} (h : (s.port p).slot = some sid) : p < s.ports.length := by
  by_contra hn
  rw [State.port, List.getD_eq_default _ _ (Nat.le_of_not_lt hn)] at h
  cases h

/-- A port that is not connected names no slot (R35). -/
theorem port_slot_none (h : ∀ q ∈ s.ports, q.ok) {p : Nat} (hc : (s.port p).ccs = false) : (s.port p).slot = none := by
  have hccs : (s.port p).ccs = (s.port p).slot.isSome :=
    getD_of_forall (p := fun q : Port => q.ccs = q.slot.isSome) (fun q hq => (h q hq).2.2.2.1) rfl p
  exact Option.isNone_iff_eq_none.1 (by rw [← Option.not_isSome, ← hccs, hc]; rfl)

/-- An attach makes its port and its slot name each other (R400). -/
theorem attach_ports {p dev sid serial : Nat} {sp : Speed} (h : s.PortsOk) (hp : p < s.ports.length)
    (hc : (s.port p).ccs = false) (hfree : s.entry sid = none) (hsid : sid < s.slotTab.length)
    (hports : t.ports = s.ports.modify p (fun q => q.attach sp sid))
    (hslots : t.slotTab = s.slotTab.set sid (some (DeviceSlot.create s.cfg p dev serial sp))) : t.PortsOk := by
  obtain ⟨hok, hnames, hback⟩ := h
  have hnone := port_slot_none hok hc
  have port_new : t.port p = (s.port p).attach sp sid := by
    rw [State.port, hports, List.getD_eq_getElem _ _ (by simpa using hp), List.getElem_modify, if_pos rfl,
      State.port, List.getD_eq_getElem _ _ hp]
  have port_other {q : Nat} (hq : p ≠ q) : t.port q = s.port q := by
    rw [State.port, hports, getD_modify_ne _ _ _ hq, State.port]
  have entry_new : t.entry sid = some (DeviceSlot.create s.cfg p dev serial sp) := by
    rw [State.entry, hslots, getD_set_self _ _ _ hsid]
  have entry_other {k : Nat} (hk : sid ≠ k) : t.entry k = s.entry k := by
    rw [State.entry, hslots, getD_set_ne _ _ _ hk, State.entry]
  refine ⟨hports ▸ forall_mem_modify hok (fun q hq => portAttach_ok sp sid hq) p, fun q hq k hk => ?_,
    fun k _ d hd => ?_⟩
  · by_cases hpq : p = q
    · subst hpq
      rw [port_new] at hk ⊢
      cases hk
      exact ⟨_, entry_new, rfl, rfl⟩
    · rw [port_other hpq] at hk ⊢
      obtain ⟨d, hd, hrest⟩ := hnames q (List.mem_range.2 (port_lt_of_slot hk)) k hk
      have hk' : sid ≠ k := by rintro rfl; cases hfree.symm.trans hd
      exact ⟨d, (entry_other hk').trans hd, hrest⟩
  · by_cases hk' : sid = k
    · subst hk'
      cases entry_new.symm.trans hd
      exact congrArg Port.slot port_new
    · have hd' := (entry_other hk').symm.trans hd
      have hslot := hback k (List.mem_range.2 (entry_lt hd')) d hd'
      have hpq : p ≠ d.port := by
        intro e
        rw [← e, hnone] at hslot
        cases hslot
      rw [port_other hpq]
      exact hslot

/-- A detach makes its port name no slot and its slot no port (R403). -/
theorem detach_ports {sid : Nat} {d : DeviceSlot} (h : s.PortsOk) (hd : s.entry sid = some d)
    (hports : t.ports = s.ports.modify d.port Port.detach) (hslots : t.slotTab = s.slotTab.set sid none) :
    t.PortsOk := by
  obtain ⟨hok, hnames, hback⟩ := h
  have hnamed := hback sid (List.mem_range.2 (entry_lt hd)) d hd
  have hp := port_lt_of_slot hnamed
  have port_new : t.port d.port = (s.port d.port).detach := by
    rw [State.port, hports, List.getD_eq_getElem _ _ (by simpa using hp), List.getElem_modify, if_pos rfl,
      State.port, List.getD_eq_getElem _ _ hp]
  have port_other {q : Nat} (hq : d.port ≠ q) : t.port q = s.port q := by
    rw [State.port, hports, getD_modify_ne _ _ _ hq, State.port]
  have entry_new : t.entry sid = none := by
    rw [State.entry, hslots, getD_set_self _ _ _ (entry_lt hd)]
  have entry_other {k : Nat} (hk : sid ≠ k) : t.entry k = s.entry k := by
    rw [State.entry, hslots, getD_set_ne _ _ _ hk, State.entry]
  refine ⟨hports ▸ forall_mem_modify hok (fun q hq => portDetach_ok hq) d.port, fun q hq k hk => ?_,
    fun k _ x hx => ?_⟩
  · by_cases hpq : d.port = q
    · subst hpq
      rw [port_new] at hk
      cases hk
    · rw [port_other hpq] at hk ⊢
      obtain ⟨x, hx, hxp, hspeed⟩ := hnames q (List.mem_range.2 (port_lt_of_slot hk)) k hk
      have hk' : sid ≠ k := by
        rintro rfl
        cases hd.symm.trans hx
        exact hpq hxp
      exact ⟨x, (entry_other hk').trans hx, hxp, hspeed⟩
  · have hk' : sid ≠ k := by
      rintro rfl
      cases entry_new.symm.trans hx
    have hx' := (entry_other hk').symm.trans hx
    have hslot := hback k (List.mem_range.2 (entry_lt hx')) x hx'
    have hpq : d.port ≠ x.port := by
      intro e
      rw [← e, hnamed] at hslot
      exact hk' (Option.some.inj hslot)
    rw [port_other hpq]
    exact hslot

/-- A change of the Device Slot in one entry that leaves its port and speed keeps the invariant (R46). -/
theorem portsOk_of_slot (h : s.PortsOk) {k : Nat} {d d' : DeviceSlot} (hd : s.slotAt k = some d)
    (hports : t.ports = s.ports) (hslots : t.slotTab = s.slotTab.set k (some d')) (hp : d'.plugged = d.plugged) :
    t.PortsOk := by
  refine portsOk_of_same h (hports ▸ h.1) (by rw [hports]) (fun p => ?_) (entry_map_of_set _ hd hslots hp)
  rw [State.port, hports, State.port]

/-- A change of one port's register set that leaves what it names keeps the invariant (R272, R273, R274). -/
theorem portsOk_of_port (h : s.PortsOk) {n : Nat} {f : Port → Port} (hports : t.ports = s.ports.modify n f)
    (hslots : t.slotTab = s.slotTab) (hok : ∀ q : Port, q.ok → (f q).ok) (hf : ∀ q, (f q).named = q.named) :
    t.PortsOk := by
  refine portsOk_of_same h (hports ▸ forall_mem_modify h.1 hok n) (by rw [hports, List.length_modify])
    (port_named_of_modify hports hf) (fun sid => ?_)
  rw [State.entry, hslots, State.entry]

/-- A slot change leaves the slot's port and speed (R46, R47). -/
theorem SameDevice.plugged {d d' : DeviceSlot} (h : SameDevice d d') : d'.plugged = d.plugged := by
  obtain ⟨hp, -, -, -, hs, -⟩ := h
  rw [DeviceSlot.plugged, hp, hs, DeviceSlot.plugged]

/-- A port reset leaves what the port names (R273). -/
theorem portReset_named (q : Port) : q.reset.named = q.named := by
  unfold Port.reset
  split <;> rfl

/-- An instruction keeps the ports and the slot table naming each other. -/
theorem Effect.ports {i : Instr} (h : Effect s i t) (hs : s.Shape) (hp : s.PortsOk) : t.PortsOk := by
  obtain ⟨-, hports, -, -, -, hslots, -⟩ := hs
  cases h with
  | portsc p v => exact portsOk_of_port hp rfl rfl (fun q => portWrite_ok v) (fun _ => rfl)
  | portReset p v =>
    exact portsOk_of_port hp (f := Port.reset ∘ fun q => q.write v) (List.modify_modify_eq _ _ _ _) rfl
      (fun q hq => portReset_ok (portWrite_ok v hq)) (fun q => portReset_named _)
  | portpmsc p v => exact portsOk_of_port hp rfl rfl (fun q hq => hq) (fun _ => rfl)
  | attach p dev sp hlt hc hfree => exact attach_ports hp (by omega) hc hfree.2.2 (by omega) rfl rfl
  | detach sid hd => exact detach_ports hp (entry_of_slotAt hd) rfl rfl
  | splitDrain k v _ hd => exact portsOk_of_slot hp hd rfl rfl rfl
  | hostSlot hd hc | slotCommand _ hd hc => exact portsOk_of_slot hp hd rfl rfl hc.sameDevice.plugged
  | @transfer _ _ _ e d d' _ hd hc =>
    have hplugged : d'.plugged = d.plugged := hc.sameDevice.plugged
    exact portsOk_of_slot hp hd rfl rfl hplugged
  | _ => exact hp

/-- A controller reset keeps the ports and the slot table naming each other (R461, R463). -/
theorem controllerReset_ports (h : s.PortsOk) : (controllerReset s).PortsOk := by
  refine portsOk_of_same h (fun q hq => ?_) (List.length_map _) (fun p => ?_)
    (entry_map_controllerReset _ (fun _ => rfl))
  · obtain ⟨x, hx, rfl⟩ := List.mem_map.1 hq
    exact portHcrst_ok (h.1 x hx)
  · exact getD_map_keeps Port.named s.ports p Port.hcrst Port.fresh (fun _ => rfl)

/-- A quiet step keeps the ports and the slot table naming each other (R380). -/
theorem QuietEffect.ports (h : QuietEffect s t) (hp : s.PortsOk) : t.PortsOk := by
  cases h with
  | outside => exact hp
  | ended hst =>
    rcases hst with rfl | ⟨sid, d, e, hd, rfl⟩
    · exact hp
    · exact portsOk_of_slot hp hd rfl rfl rfl

end

/-- Settles O57: ATTACH and DETACH pair and part a port and a slot; nothing else changes what they name. -/
theorem everyStepKeepsThePorts : Obligations.EveryStepKeepsThePorts := by
  intro s t hs hp h
  exact (step_keeps (P := fun x => x.Shape ∧ x.PortsOk) h ⟨hs, hp⟩ (fun _ _ _ _ _ _ _ h => h)
    (fun he hready hs => ⟨he.shape hready hs.1, he.ports hs.1 hs.2⟩)
    (fun hs => ⟨controllerReset_shape hs.1, controllerReset_ports hs.2⟩)
    (fun hq => ⟨hq.shape hs, hq.ports hp⟩)).2

end Sys2Proof.Machine
end

section
/-! PROOFS. Every step keeps the run state and R/S in agreement, interrupters 1 and up silent, and the draining flags those of
accesses in progress (R32, R51, R52, R158, R206, R380, R430). -/

namespace Sys2Proof.Machine

open Sys2Proof.Claims

/-! ### The run state -/

/-- A ring's producer does not initialise it (R203). -/
theorem queue_init (r : Ring) (b : Raw) : (r.queue b).1.init = r.init := by
  rcases queue_spec r b with ⟨-, e⟩ | ⟨-, -, e⟩ | ⟨-, -, e⟩ <;> rw [e]
  unfold Ring.produced
  split <;> rfl

section
variable {s t : State} {i : Instr}

/-- An instruction keeps the run state, HSE, SRE and the command ring's state right (R32, R158, R206). -/
theorem Effect.runOk (h : Effect s i t) (hs : s.RunOk) : t.RunOk := by
  obtain ⟨hrun, hhse, hsre, hinit⟩ := id hs
  cases h with
  | run v rs => exact ⟨by cases rs <;> simp, hhse, hsre, hinit⟩
  | status v => exact ⟨hrun, by simp [UsbSts.write, w1c, hhse], by simp [UsbSts.write, w1c, hsre], hinit⟩
  | crcrStop v =>
    refine ⟨hrun, hhse, hsre, fun h => ?_⟩
    have hstop : (if v.getLsbD 2 then CmdRingState.aborted else .stopped) = .running := h
    split at hstop <;> cases hstop
  | crcrInit _ _ _ hring =>
    obtain ⟨-, -, -, rfl⟩ := initialise_spec hring
    exact ⟨hrun, hhse, hsre, fun _ => rfl⟩
  | commandDrain v _ hring => exact ⟨hrun, hhse, hsre, fun _ => hring.elim hinit (fun h => h.1)⟩
  | cmd b => exact ⟨hrun, hhse, hsre, fun h => (queue_init _ b).trans (hinit h)⟩
  | command | slotCommand => exact ⟨hrun, hhse, hsre, fun h => (advance_init _).trans (hinit h)⟩
  | _ => exact hs

/-- A controller reset halts the controller and stops the command ring (R461). -/
theorem controllerReset_runOk (s : State) : (controllerReset s).RunOk := ⟨by simp [controllerReset], rfl, rfl, nofun⟩

/-- A quiet step keeps the run state (R320, R380). -/
theorem QuietEffect.runOk (h : QuietEffect s t) (hs : s.RunOk) : t.RunOk := by
  cases h with
  | outside => exact hs
  | ended _ his => rcases his with ⟨-, rfl⟩ | ⟨-, rfl⟩ <;> exact hs

/-! ### Interrupters 1 and up -/

/-- Modifying an element keeps what the tail's elements have, where the modification keeps it short of the head. -/
theorem forall_tail_modify {α : Type} {p : α → Prop} {l : List α} {n : Nat} {f : α → α} (h : ∀ y ∈ l.tail, p y)
    (hf : n ≠ 0 → ∀ y, p y → p (f y)) : ∀ y ∈ (l.modify n f).tail, p y := by
  cases l with
  | nil => simp
  | cons x xs =>
    cases n with
    | zero => exact h
    | succ n => exact forall_mem_modify h (hf (Nat.succ_ne_zero n)) n

/-- Replacing an element keeps what the tail's elements have, where the new one has it short of the head. -/
theorem forall_tail_set {α : Type} {p : α → Prop} {l : List α} {n : Nat} {x : α} (h : ∀ y ∈ l.tail, p y)
    (hx : n ≠ 0 → p x) : ∀ y ∈ (l.set n x).tail, p y := by
  cases l with
  | nil => simp
  | cons y ys =>
    cases n with
    | zero => exact h
    | succ n => exact forall_mem_set h (hx (Nat.succ_ne_zero n)) n

/-- An element from index 1 on has what the tail's elements and the default have. -/
theorem getD_of_forall_tail {α : Type} {p : α → Prop} {l : List α} {x : α} (h : ∀ y ∈ l.tail, p y) (hx : p x)
    {n : Nat} (hn : n ≠ 0) : p (l.getD n x) := by
  cases l with
  | nil => exact hx
  | cons y ys =>
    obtain ⟨k, rfl⟩ := Nat.exists_eq_succ_of_ne_zero hn
    exact getD_of_forall h hx k

/-- An interrupter with no interrupt pending (R430). -/
def Interrupter.Silent (i : Interrupter) : Prop := i.ip = false ∧ i.ehb = false

/-- A register write raises no interrupt (R281, R285). -/
theorem IntrWrite.silent {es es' : List EventRing} {n : Nat} {f : Interrupter → Interrupter}
    (h : IntrWrite es n i f es') {x : Interrupter} (hx : x.Silent) : (f x).Silent := by
  obtain ⟨hip, hehb⟩ := hx
  cases h with
  | iman v => exact ⟨by simp [Interrupter.writeIman, w1c, hip], hehb⟩
  | erdpLo v => exact ⟨hip, by simp [Interrupter.writeErdpLo, w1c, hehb]⟩
  | _ => exact ⟨hip, hehb⟩

/-- A raise of interrupter 0 leaves the others silent (R431). -/
theorem Raised.silentTail {is is' : List Interrupter} (h : Raised is is') (hs : ∀ x ∈ is.tail, x.Silent) :
    ∀ x ∈ is'.tail, x.Silent := by
  cases h with
  | silent => exact hs
  | raised => exact forall_tail_modify hs (fun h => absurd rfl h)

/-- An instruction keeps interrupters 1 and up silent (R430). -/
theorem Effect.silent (h : Effect s i t) (hs : ∀ x ∈ s.intrs.tail, x.Silent) : ∀ x ∈ t.intrs.tail, x.Silent := by
  cases h with
  | portReset _ _ _ hr | attach _ _ _ _ _ _ _ hr | detach _ _ _ hr => exact hr.silentTail hs
  | intr hw => exact forall_tail_modify hs (fun _ _ hx => hw.silent hx)
  | _ => exact hs

/-- Newly set segments are untouched (R220). -/
theorem setSegments_untouched {gs : List (Addr × Nat)} {e : EventRing} (h : EventRing.setSegments gs = some e) :
    e.untouched := by
  obtain ⟨-, -, rfl⟩ := setSegments_spec h
  refine ⟨rfl, rfl, rfl, rfl, rfl, rfl, fun g hg => ?_⟩
  obtain ⟨x, -, rfl⟩ := List.mem_map.1 hg
  simp

/-- A dequeue pointer leaves an untouched event ring untouched (R222). -/
theorem setDequeuePtr_untouched {e : EventRing} (p : Addr) (h : e.untouched) : (e.setDequeuePtr p).untouched := by
  unfold EventRing.setDequeuePtr
  split <;> exact h

/-- The slot at an untouched event ring's cursor holds no event (R224). -/
theorem untouched_at {e : EventRing} (h : e.untouched) : e.at e.gseg e.gidx = 0 := by
  obtain ⟨-, -, -, -, -, -, hslots⟩ := h
  have hseg : (e.seg e.gseg).slots = List.replicate (e.seg e.gseg).slots.length 0 :=
    getD_of_forall (p := fun g : Segment => g.slots = List.replicate g.slots.length 0) hslots rfl _
  rw [EventRing.at, hseg]
  exact getD_of_forall (p := fun b : Raw => b = 0) (fun b hb => List.eq_of_mem_replicate hb) rfl _

/-- The guest finds no event in an untouched event ring (R224). -/
theorem consume_untouched {e : EventRing} (h : e.untouched) : e.consume.1 = e := by
  have hat := untouched_at h
  obtain ⟨-, -, -, -, -, hccs, -⟩ := h
  have hcycle : (rawCycle (e.at e.gseg e.gidx) != e.gccs) = true := by rw [hat, hccs]; decide
  rw [EventRing.consume, if_pos hcycle, ite_self]

/-- A controller reset leaves an untouched event ring untouched (R461; log 15). -/
theorem eventHcrst_untouched {e : EventRing} (h : e.untouched) : e.hcrst.untouched := by
  obtain ⟨-, -, -, hseg, hidx, hccs, -⟩ := h
  exact ⟨rfl, rfl, rfl, hseg, hidx, hccs, nofun⟩

theorem fresh_untouched : EventRing.fresh.untouched := by decide

/-- A posting on interrupter 0 leaves the other event rings untouched (R221). -/
theorem Posted.untouched {es es' : List EventRing} (h : Posted es es') (hs : ∀ e ∈ es.tail, e.untouched) :
    ∀ e ∈ es'.tail, e.untouched := by
  cases h with
  | dropped => exact hs
  | posted => exact forall_tail_set hs (fun h => absurd rfl h)

/-- A register write leaves the event rings of interrupters 1 and up untouched (R283, R285). -/
theorem IntrWrite.untouched {es es' : List EventRing} {n : Nat} {f : Interrupter → Interrupter}
    (h : IntrWrite es n i f es') (hs : ∀ e ∈ es.tail, e.untouched) : ∀ e ∈ es'.tail, e.untouched := by
  have loaded (hl : Loaded es n es') : ∀ e ∈ es'.tail, e.untouched := by
    cases hl with
    | kept => exact hs
    | made _ hg => exact forall_tail_set hs (fun _ => setSegments_untouched hg)
  have moved (p : Addr) : ∀ e ∈ (es.set n ((es.getD n EventRing.fresh).setDequeuePtr p)).tail, e.untouched :=
    forall_tail_set hs (fun hn => setDequeuePtr_untouched p (getD_of_forall_tail hs fresh_untouched hn))
  cases h with
  | erstbaLo _ hl | erstbaHi _ hl => exact loaded hl
  | erdpLo _ p | erdpHi _ p => exact moved p
  | _ => exact hs

/-- An instruction leaves the event rings of interrupters 1 and up untouched (R430). -/
theorem Effect.untouched (h : Effect s i t) (hs : ∀ e ∈ s.evRings.tail, e.untouched) :
    ∀ e ∈ t.evRings.tail, e.untouched := by
  cases h with
  | crcrStop _ _ _ hp | portReset _ _ hp | attach _ _ _ _ _ _ hp | detach _ _ hp | command _ hp
    | slotCommand _ _ _ hp | transfer _ _ _ _ hp => exact hp.untouched hs
  | intr hw => exact hw.untouched hs
  | evt n =>
    refine forall_tail_set hs (fun hn => ?_)
    have hring : (s.evRing n).untouched := getD_of_forall_tail hs fresh_untouched hn
    exact (consume_untouched hring).symm ▸ hring
  | _ => exact hs

/-- A controller reset keeps interrupters 1 and up silent (R461). -/
theorem controllerReset_onlyInterrupterZero (hs : s.OnlyInterrupterZero) :
    (controllerReset s).OnlyInterrupterZero := by
  constructor
  · intro x hx
    obtain ⟨y, -, rfl⟩ := List.mem_map.1 (List.mem_of_mem_tail hx)
    exact ⟨rfl, rfl⟩
  · intro e he
    have he' : e ∈ (s.evRings.map EventRing.hcrst).tail := he
    rw [← List.map_tail] at he'
    obtain ⟨x, hx, rfl⟩ := List.mem_map.1 he'
    exact eventHcrst_untouched (hs.2 x hx)

/-- A quiet step keeps interrupters 1 and up silent (R320, R374, R430). -/
theorem QuietEffect.onlyInterrupterZero (h : QuietEffect s t) (hs : s.OnlyInterrupterZero) :
    t.OnlyInterrupterZero := by
  cases h with
  | outside => exact hs
  | ended _ his =>
    rcases his with ⟨rfl, -⟩ | ⟨rfl, -⟩
    · exact hs
    · exact ⟨forall_tail_modify hs.1 (fun h => absurd rfl h), hs.2⟩

/-- Every step keeps the run state right (R32, R158, R206). -/
theorem step_runOk (h : step s = .next t) (hs : s.RunOk) : t.RunOk :=
  step_keeps (P := State.RunOk) h hs (fun _ _ _ _ _ _ _ h => h) (fun he _ => he.runOk)
    (fun _ => controllerReset_runOk _) (fun hq => hq.runOk hs)

/-- Every step keeps interrupters 1 and up silent (R430). -/
theorem step_onlyInterrupterZero (h : step s = .next t) (hs : s.OnlyInterrupterZero) : t.OnlyInterrupterZero :=
  step_keeps (P := State.OnlyInterrupterZero) h hs (fun _ _ _ _ _ _ _ h => h)
    (fun he _ hs => ⟨he.silent hs.1, he.untouched hs.2⟩) controllerReset_onlyInterrupterZero
    (fun hq => hq.onlyInterrupterZero hs)

end

end Sys2Proof.Machine
end

section
/-! PROOFS. Every step keeps the draining flags those of accesses in progress, and a command drain's controller and ring
Running (R51, R52, R90, R380); with the run state and the silent interrupters, the whole of it (R32, R158, R206, R430). -/

namespace Sys2Proof.Machine

open Sys2Proof.Claims

/-! ### The work of a drain -/

/-- The two forms of a drain's work are one with either value of `posted` (R380). -/
theorem drains_iff {w : Work} {sid serial e : Nat} : w.drains sid serial e ↔ ∃ p, w = .xferDrain sid serial e p :=
  (Bool.exists_bool (p := fun p => w = .xferDrain sid serial e p)).symm

/-- Noting a posted event leaves what is drained (R380). -/
theorem drains_note {w : Work} {sid serial e : Nat} (b : Bool) (h : w.drains sid serial e) :
    (w.note b).drains sid serial e := by
  obtain ⟨p, rfl⟩ := drains_iff.1 h
  exact drains_iff.2 ⟨_, rfl⟩

/-- What the holder of the lock is: a drain, and if it is the command drain, then of a Running controller and ring (R51,
R90, R320). -/
def Work.Holds (w : Work) (s : State) : Prop :=
  w ≠ .idle ∧ (w = .cmdDrain false ∨ w = .cmdDrain true → s.ctrl = .running ∧ s.cmdState = .running)

theorem Work.Holds.note {w : Work} {s : State} (h : w.Holds s) (b : Bool) : (w.note b).Holds s := by
  obtain ⟨hidle, hcmd⟩ := h
  cases w with
  | idle => exact absurd rfl hidle
  | cmdDrain p => exact ⟨nofun, fun _ => hcmd (by cases p <;> simp)⟩
  | xferDrain => exact ⟨nofun, nofun⟩

/-- What waits without the lock: a split transfer drain, or the second half of an access (R82, R380). -/
def Task.Waits (t : Task) : Prop :=
  t.work ≠ .cmdDrain false ∧ t.work ≠ .cmdDrain true ∧ (t.work = .idle → t.high ≠ none)

theorem waits_xferDrain (sid serial e : Nat) (p : Bool) (h : Option HighHalf) :
    Task.Waits ⟨.xferDrain sid serial e p, h⟩ := ⟨nofun, nofun, nofun⟩

theorem waits_high (h : HighHalf) : Task.Waits ⟨.idle, some h⟩ := ⟨nofun, nofun, fun _ => nofun⟩

theorem Task.Waits.note {t : Task} (h : t.Waits) (b : Bool) : Task.Waits { t with work := t.work.note b } := by
  obtain ⟨w, high⟩ := t
  obtain ⟨hfalse, htrue, hhigh⟩ := h
  cases w with
  | cmdDrain p => cases p with
    | false => exact absurd rfl hfalse
    | true => exact absurd rfl htrue
  | xferDrain => exact waits_xferDrain _ _ _ _ _
  | idle => exact ⟨nofun, nofun, hhigh⟩

/-- One of the accesses in progress is the drain of endpoint e of the Device Slot with this serial number in entry sid. -/
def Drained (ts : List Task) (sid serial e : Nat) : Prop := ∃ x ∈ ts, x.work.drains sid serial e

theorem Drained.mono {ts ts' : List Task} {sid serial e : Nat} (h : Drained ts sid serial e) (hsub : ts ⊆ ts') :
    Drained ts' sid serial e := by
  obtain ⟨x, hx, hd⟩ := h
  exact ⟨x, hsub hx, hd⟩

/-- The element at an index is the only one that goes when it is erased. -/
theorem mem_eraseIdx_of_ne {α : Type} {l : List α} {k : Nat} {x y : α} (hx : x ∈ l) (hy : l[k]? = some y)
    (hne : x ≠ y) : x ∈ l.eraseIdx k := by
  obtain ⟨i, hi⟩ := List.getElem?_of_mem hx
  exact List.mem_eraseIdx_iff_getElem?.2 ⟨i, fun hik => hne (Option.some.inj (hi.symm.trans (hik ▸ hy))), hi⟩

/-- Replacing an element loses no other. -/
theorem mem_set_of_ne {α : Type} {l : List α} {k : Nat} {x y z : α} (hx : x ∈ l) (hy : l[k]? = some y)
    (hne : x ≠ y) : x ∈ l.set k z := by
  obtain ⟨i, hi⟩ := List.getElem?_of_mem hx
  refine List.mem_of_getElem? ((List.getElem?_set_ne fun hik => hne ?_).trans hi)
  exact Option.some.inj (hi.symm.trans (hik ▸ hy))

/-- What is drained stays so when another access ends (R380). -/
theorem Drained.erase {ts : List Task} {k sid serial e : Nat} {x : Task} (h : Drained ts sid serial e)
    (hk : ts[k]? = some x) (hx : ¬ x.work.drains sid serial e) : Drained (ts.eraseIdx k) sid serial e := by
  obtain ⟨y, hy, hd⟩ := h
  exact ⟨y, mem_eraseIdx_of_ne hy hk (fun hyx => hx (hyx ▸ hd)), hd⟩

/-- What is drained stays so when a drain notes a posted event (R380). -/
theorem Drained.note {ts : List Task} {k sid serial e : Nat} {x : Task} (h : Drained ts sid serial e)
    (hk : ts[k]? = some x) (b : Bool) : Drained (ts.set k { x with work := x.work.note b }) sid serial e := by
  obtain ⟨y, hy, hd⟩ := h
  by_cases hyx : y = x
  · exact ⟨_, List.mem_set (List.getElem?_eq_some_iff.1 hk).1 _, drains_note b (hyx ▸ hd)⟩
  · exact ⟨y, mem_set_of_ne hy hk hyx, hd⟩

/-! ### The accesses in progress -/

/-- Every draining flag is that of an access in progress (R52). -/
def State.FlagsOk (s : State) : Prop :=
  ∀ sid d e, s.entry sid = some d → d.isDraining e = true → Drained s.tasks sid d.serial e

/-- The accesses in progress are as they should be, short of the second half of the one that is running (R51, R52, R90). -/
def State.Busy (s : State) : Prop := (∀ t ∈ s.locked, t.work.Holds s) ∧ (∀ t ∈ s.tasks, t.Waits) ∧ s.FlagsOk

/-- A set draining flag has its endpoint's index (R52). -/
theorem isDraining_lt {d : DeviceSlot} {e : Nat} (h : d.isDraining e = true) : e < d.draining.length := by
  by_contra hn
  rw [DeviceSlot.isDraining, List.getD_eq_default _ _ (Nat.le_of_not_lt hn)] at h
  cases h

/-- The invariant of the accesses in progress, taken apart. -/
theorem accessesOk_iff (s : State) : s.AccessesOk ↔ s.cont = none ∧ s.Busy := by
  constructor
  · rintro ⟨hcont, hlock, hwait, hflags⟩
    exact ⟨hcont, hlock, hwait, fun sid d e hd he =>
      hflags sid (List.mem_range.2 (entry_lt hd)) d hd e (List.mem_range.2 (isDraining_lt he)) he⟩
  · rintro ⟨hcont, hlock, hwait, hflags⟩
    exact ⟨hcont, hlock, hwait, fun sid _ d hd e _ he => hflags sid d e hd he⟩

section
variable {s t : State} {i : Instr}

/-- The holder of the lock notes a posted event (R320, R374). -/
theorem State.Busy.noteLocked {x : Task} (h : s.Busy) (hl : s.locked = some x) (b : Bool) :
    State.Busy { s with locked := some { x with work := x.work.note b } } := by
  obtain ⟨hlock, hwait, hflags⟩ := h
  have hx : x.work.Holds s := hlock x hl
  refine ⟨fun y hy => ?_, hwait, hflags⟩
  cases hy
  exact hx.note b

/-- A split drain notes a posted event (R380). -/
theorem State.Busy.noteTask {k : Nat} {x : Task} (h : s.Busy) (hk : s.tasks[k]? = some x) (b : Bool) :
    State.Busy { s with tasks := s.tasks.set k { x with work := x.work.note b } } := by
  obtain ⟨hlock, hwait, hflags⟩ := h
  exact ⟨hlock, forall_mem_set hwait ((hwait x (List.mem_of_getElem? hk)).note b) k,
    fun sid d e hd he => (hflags sid d e hd he).note hk b⟩

/-- An access with a second half left waits for its turn (R82). -/
theorem State.Busy.addHigh (h : s.Busy) (x : HighHalf) :
    State.Busy { s with tasks := s.tasks ++ [⟨.idle, some x⟩] } := by
  obtain ⟨hlock, hwait, hflags⟩ := h
  refine ⟨hlock, fun y hy => ?_, fun sid d e hd he => (hflags sid d e hd he).mono (List.subset_append_left _ _)⟩
  rcases List.mem_append.1 hy with hy | hy
  · exact hwait y hy
  · exact List.mem_singleton.1 hy ▸ waits_high x

/-- A second half has its turn (R82). -/
theorem State.Busy.takeHigh {k : Nat} {x : Option HighHalf} (h : s.Busy) (hk : s.tasks[k]? = some ⟨.idle, x⟩) :
    State.Busy { s with tasks := s.tasks.eraseIdx k } := by
  obtain ⟨hlock, hwait, hflags⟩ := h
  exact ⟨hlock, fun y hy => hwait y (List.mem_of_mem_eraseIdx hy),
    fun sid d e hd he => (hflags sid d e hd he).erase hk (fun hn => nomatch hn)⟩

/-! ### Instructions -/

/-- Flags stay those of accesses in progress where one entry is replaced and each of its flags has its access (R52). -/
theorem State.FlagsOk.set {k : Nat} {o : Option DeviceSlot} (h : s.FlagsOk) (ht : t.slotTab = s.slotTab.set k o)
    (hsub : s.tasks ⊆ t.tasks) (ho : ∀ d ∈ o, ∀ e, d.isDraining e = true → Drained t.tasks k d.serial e) :
    t.FlagsOk := by
  intro sid d e hd he
  rcases entry_set_cases ht sid with hsame | ⟨rfl, hnew⟩
  · exact (h sid d e (hsame.symm.trans hd) he).mono hsub
  · exact ho d (hnew.symm.trans hd) e he

/-- Flags stay those of accesses in progress where a slot keeps its flags and its serial number (R52). -/
theorem State.FlagsOk.setSlot {k : Nat} {d d' : DeviceSlot} (h : s.FlagsOk) (hd : s.slotAt k = some d)
    (ht : t.slotTab = s.slotTab.set k (some d')) (htasks : t.tasks = s.tasks) (hdevice : SameDevice d d')
    (hdraining : d'.draining = d.draining) : t.FlagsOk := by
  obtain ⟨-, -, hserial, -⟩ := hdevice
  refine h.set ht (htasks ▸ List.Subset.refl _) (fun x hx e he => ?_)
  cases hx
  rw [DeviceSlot.isDraining, hdraining] at he
  rw [htasks, hserial]
  exact h k d e (entry_of_slotAt hd) he

/-- A flag that is set after one was set is that one, or was set before (R52). -/
theorem isDraining_setDraining_true {d : DeviceSlot} {e e' : Nat} (h : (d.setDraining e true).isDraining e' = true) :
    e = e' ∨ d.isDraining e' = true := by
  rcases getD_set_cases d.draining e e' true false with hsame | ⟨rfl, -⟩
  · exact .inr (hsame.symm.trans h)
  · exact .inl rfl

/-- A flag that is set after one was cleared is another one, and was set before (R52). -/
theorem isDraining_setDraining_false {d : DeviceSlot} {e e' : Nat} (h : (d.setDraining e false).isDraining e' = true) :
    e ≠ e' ∧ d.isDraining e' = true := by
  have hne : e ≠ e' := by
    rintro rfl
    have hlt : e < d.draining.length := by simpa [DeviceSlot.setDraining] using isDraining_lt h
    cases (getD_set_self d.draining false false hlt).symm.trans h
  exact ⟨hne, (getD_set_ne d.draining false false hne).symm.trans h⟩

/-- An instruction keeps the draining flags those of accesses in progress (R52). -/
theorem Effect.flags (h : Effect s i t) (hs : s.FlagsOk) : t.FlagsOk := by
  cases h with
  | hostSlot hd hc | slotCommand _ hd hc => exact hs.setSlot hd rfl rfl hc.sameDevice hc.draining
  | transfer _ _ hd hc => exact hs.setSlot hd rfl rfl hc.sameDevice (by cases hc <;> rfl)
  | splitDrain k v _ hd =>
    refine hs.set (s := s) rfl (List.subset_append_left _ _) (fun x hx e he => ?_)
    cases hx
    rcases isDraining_setDraining_true he with rfl | he
    · exact ⟨_, List.mem_append_right _ (List.mem_singleton_self _), .inl rfl⟩
    · exact (hs k _ e (entry_of_slotAt hd) he).mono (List.subset_append_left _ _)
  | attach =>
    refine hs.set (s := s) rfl (List.Subset.refl _) (fun x hx e he => ?_)
    cases hx
    cases (getD_of_forall (p := fun b : Bool => b = false) (fun b hb => List.eq_of_mem_replicate hb) rfl e).symm.trans he
  | detach => exact hs.set (s := s) rfl (List.Subset.refl _) nofun
  | _ => exact hs

/-- An instruction adds to the accesses in progress a split transfer drain at most (R380). -/
theorem Effect.waits (h : Effect s i t) (hs : ∀ x ∈ s.tasks, x.Waits) : ∀ x ∈ t.tasks, x.Waits := by
  cases h with
  | splitDrain =>
    intro x hx
    rcases List.mem_append.1 hx with hx | hx
    · exact hs x hx
    · exact List.mem_singleton.1 hx ▸ waits_xferDrain _ _ _ _ _
  | _ => exact hs

/-- An instruction that starts without the lock takes it for a drain only (R320, R374). -/
theorem Effect.holds (h : Effect s i t) (hl : s.locked = none) : ∀ x ∈ t.locked, x.work.Holds t := by
  have free : ∀ x ∈ s.locked, x.work.Holds t := by rw [hl]; nofun
  cases h with
  | commandDrain v hctrl =>
    intro x hx
    cases hx
    exact ⟨nofun, fun _ => ⟨hctrl, rfl⟩⟩
  | atomicDrain =>
    intro x hx
    cases hx
    exact ⟨nofun, nofun⟩
  | _ => exact free

/-- An instruction leaves no second half where there was none (R82). -/
theorem Effect.cont (h : Effect s i t) (hs : s.cont = none) : t.cont = none := by
  cases h with
  | commandDrain | atomicDrain | splitDrain => rfl
  | _ => exact hs

/-- A TRB leaves the run states and the accesses in progress (R290, R320, R380). -/
theorem Effect.drainFields (h : Effect s i t) (ht : isTrb i = true) :
    t.ctrl = s.ctrl ∧ t.cmdState = s.cmdState ∧ t.locked = s.locked ∧ t.tasks = s.tasks ∧ t.cont = s.cont := by
  have other {j : Instr} (hj : isTrb j = false) : i ≠ j := fun hij => by rw [hij, hj] at ht; cases ht
  obtain ⟨-, haccess⟩ := h.doorbells (fun _ _ => other rfl)
  refine ⟨(h.ctrl (fun _ => other rfl)).1, ?_, haccess⟩
  rcases h.cmdState with hsame | ⟨⟨v, ⟨hi, -⟩ | hi⟩, -⟩ | ⟨⟨v, hi, -⟩, -⟩ | ⟨⟨v, hi, -⟩, -⟩ | ⟨⟨v, hi⟩, -⟩
  · exact hsame
  all_goals exact absurd hi (other rfl)

/-- An instruction of an access or of a drain keeps the accesses in progress right (R51, R52, R90). -/
theorem Effect.busy (h : Effect s i t) (hl : s.locked = none ∨ isTrb i = true) (hs : s.Busy) : t.Busy := by
  obtain ⟨hlock, hwait, hflags⟩ := hs
  refine ⟨?_, h.waits hwait, h.flags hflags⟩
  rcases hl with hl | ht
  · exact h.holds hl
  · obtain ⟨hctrl, hcmd, hlocked, -⟩ := h.drainFields ht
    intro x hx
    have hx' : x.work.Holds s := hlock x (hlocked ▸ hx)
    exact ⟨hx'.1, fun hw => ⟨hctrl.trans (hx'.2 hw).1, hcmd.trans (hx'.2 hw).2⟩⟩

/-- A controller reset without a drain that holds the lock keeps the accesses in progress right (R461, R462). -/
theorem controllerReset_busy (hl : s.locked = none) (hs : s.Busy) : (controllerReset s).Busy := by
  obtain ⟨-, hwait, -⟩ := hs
  refine ⟨by simp [controllerReset, hl], hwait, fun sid d e hd he => ?_⟩
  rw [controllerReset_entry] at hd
  obtain ⟨x, -, rfl⟩ := Option.map_eq_some_iff.1 hd
  have hclear : ∀ b ∈ x.hcrst.draining, b = false := by simp [DeviceSlot.hcrst]
  cases (getD_of_forall (p := fun b : Bool => b = false) hclear rfl e).symm.trans he

/-- Running an instruction keeps the accesses in progress right, and leaves no second half where there was none. -/
theorem exec_busy (h : exec i s = .next t) (hl : s.locked = none ∨ isTrb i = true) (hs : s.Busy) :
    t.Busy ∧ (s.cont = none → t.cont = none) := by
  cases hr : isReset i with
  | false => exact ⟨(exec_effect hr h).busy hl hs, (exec_effect hr h).cont⟩
  | true =>
    obtain ⟨r, rfl⟩ := exec_reset hr h
    have hlocked : s.locked = none :=
      hl.resolve_right (fun ht => by cases (isReset_of_isTrb ht).symm.trans hr)
    exact ⟨controllerReset_busy hlocked hs, id⟩

/-- Running a TRB leaves the accesses in progress (R320, R380). -/
theorem exec_trb_fields (h : exec i s = .next t) (ht : isTrb i = true) : t.locked = s.locked ∧ t.tasks = s.tasks := by
  obtain ⟨-, -, hlocked, htasks, -⟩ := (exec_effect (isReset_of_isTrb ht) h).drainFields ht
  exact ⟨hlocked, htasks⟩

/-! ### Steps -/

/-- A step that runs an instruction keeps the accesses in progress right (R51, R52, R82, R90, R380). -/
theorem instructionStep_accesses {src : Source} {s1 t1 : State} (hf : Fetches s src i s1) (he : exec i s1 = .next t1)
    (hcont : s.cont = none) (hs : s.Busy) : (settle src t1).cont = none ∧ (settle src t1).Busy := by
  cases hf with
  | locked hl hn =>
    obtain ⟨hbusy, hc⟩ := exec_busy he (.inr (isTrb_instrOfRaw _)) hs
    obtain ⟨hlocked, -⟩ := exec_trb_fields he (isTrb_instrOfRaw _)
    exact ⟨hc hcont, hbusy.noteLocked (hlocked.trans hl) _⟩
  | access a rest hl =>
    obtain ⟨hbusy, -⟩ := exec_busy he (.inl hl) hs
    unfold settle
    dsimp only
    split
    · exact ⟨rfl, hbusy.addHigh _⟩
    · next hc => exact ⟨hc, hbusy⟩
  | host op rest hl =>
    obtain ⟨hbusy, hc⟩ := exec_busy he (.inl hl) hs
    exact ⟨hc hcont, hbusy⟩
  | task rest hl hk hn =>
    obtain ⟨hbusy, hc⟩ := exec_busy he (.inr (isTrb_instrOfRaw _)) hs
    obtain ⟨-, htasks⟩ := exec_trb_fields he (isTrb_instrOfRaw _)
    exact ⟨hc hcont, hbusy.noteTask (htasks ▸ hk) _⟩
  | @high k x rest hl hk =>
    obtain ⟨hbusy, hc⟩ := exec_busy he (.inl hl) (hs.takeHigh hk)
    unfold settle joinHalves
    dsimp only
    split <;> exact ⟨hc hcont, hbusy⟩

/-- The end of an access leaves its second half waiting (R82, R320, R374). -/
theorem endAccess_busy (x : Task) (hs : s.Busy) : (endAccess s x).Busy := by
  unfold endAccess
  cases x.work.posted <;> cases x.high with
  | none => exact hs
  | some y => exact hs.addHigh y

/-- An entry of the slot table is a slot (R45). -/
theorem slotAt_of_entry {sid : Nat} {d : DeviceSlot} (hs : s.Shape) (h : s.entry sid = some d) :
    s.slotAt sid = some d := by
  obtain ⟨-, -, -, -, -, hlen, -, hzero, -⟩ := hs
  have hlt := entry_lt h
  have hpos : sid ≠ 0 := by
    rintro rfl
    cases h.symm.trans hzero
  rw [State.slotAt, if_pos ⟨Nat.one_le_iff_ne_zero.2 hpos, by omega⟩]
  exact h

/-- A flag set after the end of a drain was set before, and is not the drain's (R52, R380). -/
theorem flag_of_endDraining {w : Work} {sid e : Nat} {d' : DeviceSlot} (hs : s.Shape)
    (hd : (endDraining s w).entry sid = some d') (he : d'.isDraining e = true) :
    (∃ d, s.entry sid = some d ∧ d.serial = d'.serial ∧ d.isDraining e = true) ∧ ¬ w.drains sid d'.serial e := by
  have apart {w : Work} (hw : ∀ serial p, w ≠ .xferDrain sid serial e p) : ¬ w.drains sid d'.serial e :=
    fun hn => (drains_iff.1 hn).elim (hw _)
  cases w with
  | idle | cmdDrain => exact ⟨⟨d', hd, rfl, he⟩, apart nofun⟩
  | xferDrain k serial n p =>
    unfold endDraining at hd
    dsimp only at hd
    split at hd
    · next d hslot =>
      split at hd
      · by_cases hk : k = sid
        · subst hk
          have hnew : (s.setSlot k (some (d.setDraining n false))).entry k = some (d.setDraining n false) :=
            getD_set_self _ _ _ (entry_lt (entry_of_slotAt hslot))
          cases hd.symm.trans hnew
          obtain ⟨hne, hflag⟩ := isDraining_setDraining_false he
          exact ⟨⟨d, entry_of_slotAt hslot, rfl, hflag⟩, apart (fun _ _ hw => by cases hw; exact hne rfl)⟩
        · have hsame : s.entry sid = some d' := (getD_set_ne _ _ _ hk).symm.trans hd
          exact ⟨⟨d', hsame, rfl, he⟩, apart (fun _ _ hw => by cases hw; exact hk rfl)⟩
      · next hserial =>
        refine ⟨⟨d', hd, rfl, he⟩, fun hn => hserial ?_⟩
        obtain ⟨_, hw⟩ := drains_iff.1 hn
        cases hw
        cases (entry_of_slotAt hslot).symm.trans hd
        rfl
    · next hnone =>
      refine ⟨⟨d', hd, rfl, he⟩, apart (fun _ _ hw => ?_)⟩
      cases hw
      cases hnone.symm.trans (slotAt_of_entry hs hd)

/-- The final step of an access in progress (R380). -/
theorem endTask_busy (hs : s.Shape) (hb : s.Busy) (k : Nat) : (endTask s k).Busy := by
  unfold endTask
  split
  · exact hb
  · next x hk =>
    obtain ⟨hlock, hwait, hflags⟩ := hb
    obtain ⟨st, hst, -⟩ := endDraining_fields { s with tasks := s.tasks.eraseIdx k } x.work
    refine endAccess_busy x ?_
    have hleft : State.FlagsOk (endDraining { s with tasks := s.tasks.eraseIdx k } x.work) := by
      intro sid d e hd he
      obtain ⟨⟨d0, hd0, hserial, he0⟩, hother⟩ := flag_of_endDraining (s := { s with tasks := s.tasks.eraseIdx k }) hs hd he
      have hdrained : Drained s.tasks sid d.serial e := hserial ▸ hflags sid d0 e hd0 he0
      rw [hst]
      exact hdrained.erase hk hother
    rw [hst] at hleft ⊢
    exact ⟨hlock, fun y hy => hwait y (List.mem_of_mem_eraseIdx hy), hleft⟩

/-- The end of an access leaves no second half where there was none. -/
theorem endAccess_cont (s : State) (x : Task) : (endAccess s x).cont = s.cont := by
  obtain ⟨is, sts, ts, he, -⟩ := endAccess_fields s x
  rw [he]

/-- The final step of an access leaves no second half where there was none. -/
theorem endTask_cont (s : State) (k : Nat) : (endTask s k).cont = s.cont := by
  unfold endTask
  split
  · rfl
  · next x _ =>
    obtain ⟨st, hst, -⟩ := endDraining_fields { s with tasks := s.tasks.eraseIdx k } x.work
    rw [endAccess_cont, hst]

/-- A quiet step keeps the accesses in progress right (R51, R52, R82, R320, R380). -/
theorem quiet_busy (hs : s.Shape) (hb : s.Busy) : (quiet s).cont = s.cont ∧ (quiet s).Busy := by
  unfold quiet
  split
  · obtain ⟨-, hwait, hflags⟩ := hb
    exact ⟨endAccess_cont _ _, endAccess_busy _ ⟨nofun, hwait, hflags⟩⟩
  · split
    · exact ⟨endTask_cont s 0, endTask_busy hs hb 0⟩
    · next k r _ => exact ⟨endTask_cont _ k, endTask_busy (s := { s with inbox := r }) hs hb k⟩
    all_goals exact ⟨rfl, hb⟩

/-- Every step keeps the accesses in progress right (R51, R52, R90, R380). -/
theorem step_accesses (h : step s = .next t) (hs : s.Shape) (ha : s.AccessesOk) : t.AccessesOk := by
  obtain ⟨hcont, hb⟩ := (accessesOk_iff s).1 ha
  refine (accessesOk_iff t).2 ?_
  rcases step_cases h with ⟨src, i, s1, t1, hf, he, rfl⟩ | rfl
  · exact instructionStep_accesses hf he hcont hb
  · obtain ⟨hc, hb'⟩ := quiet_busy hs hb
    exact ⟨hc.trans hcont, hb'⟩

end

/-- Settles O58: the run state and the interrupters change by an instruction, a controller reset or the end of a drain
only, and each access in progress keeps its form and the drain of each flag until its own end. -/
theorem everyStepKeepsRunStateAndDrains : Obligations.EveryStepKeepsRunStateAndDrains :=
  fun _ _ hs hrun hintr haccess h => ⟨step_runOk h hrun, step_onlyInterrupterZero h hintr, step_accesses h hs haccess⟩

end Sys2Proof.Machine
end

section
/-! PROOFS. The controller reset field by field (R461 to R463), the draws of MFINDEX (R280), and the interrupt levels (R50,
R431, R464). -/

namespace Sys2Proof.Machine

open Sys2Proof.Claims

/-! ### The controller reset -/

/-- What a controller reset leaves of a Device Slot (R463). -/
theorem hcrst_eq (d : DeviceSlot) :
    d.hcrst = { d with
      ctx := ⟨d.ctx.routeString, 0, .disabled, d.ctx.speed⟩
      eps := d.eps.map (fun c => ⟨.disabled, c.type⟩)
      rings := d.rings.map (fun r => { r with init := false })
      ctlResp := []
      draining := List.replicate d.draining.length false } := by
  simp only [DeviceSlot.hcrst, List.map_const']

/-- Settles O15: the definition, with each table's constant entries counted. -/
theorem controllerResetLeaves : Obligations.ControllerResetLeaves := by
  intro s
  have hslots : DeviceSlot.hcrst = _ := funext hcrst_eq
  unfold controllerReset
  rw [hslots, List.map_const', List.map_const', List.map_const']
  rfl

/-! ### MFINDEX -/

/-- A drawn value as a register's word (R36). -/
theorem setWidth_eq_w32 (v : BitVec 14) : v.setWidth 32 = w32 v.toNat := by
  apply BitVec.eq_of_toNat_eq
  simp [w32]

/-- Settles O19: by whether a value is listed. -/
theorem mfindexDraws : Obligations.MfindexDraws := by
  intro s lane
  refine ⟨fun v r h => ?_, fun h => ?_, fun v => rfl, rfl⟩
  · rw [← setWidth_eq_w32]
    simp [exec, execMfindex, State.drawMfindex, h]
  · rw [← setWidth_eq_w32]
    simp [exec, execMfindex, State.drawMfindex, h]

/-! ### The interrupt levels -/

/-- The register set a raise leaves in its interrupter (R431). -/
theorem raiseInterrupt_intr_same (s : State) (n : Nat) (h : n < s.intrs.length) :
    (s.raiseInterrupt n).intr n = { s.intr n with ip := true, ehb := true } := by
  simp [State.intr, h, Interrupter.raised]

/-- A raise leaves the other interrupters (R431). -/
theorem raiseInterrupt_intr_other (s : State) {n m : Nat} (h : m ≠ n) : (s.raiseInterrupt n).intr m = s.intr m :=
  getD_modify_ne _ _ _ h.symm

/-- A second raise changes nothing more (R431; log 27). -/
theorem raiseInterrupt_twice (s : State) (n : Nat) : (s.raiseInterrupt n).raiseInterrupt n = s.raiseInterrupt n := by
  have h : Interrupter.raised ∘ Interrupter.raised = Interrupter.raised := rfl
  simp only [State.raiseInterrupt, List.modify_modify_eq, h]

/-- The level is IP and IE and INTE (R50). -/
theorem irq_iff (s : State) (n : Nat) :
    s.irq n = true ↔ (s.intr n).ip = true ∧ (s.intr n).ie = true ∧ s.usbcmd.inte = true := by
  simp [State.irq, State.intr, and_assoc]

/-- With INTE clear every level is 0 (R50). -/
theorem irq_of_inte {s : State} (h : s.usbcmd.inte = false) (n : Nat) : s.irq n = false := by
  simp [State.irq, h]

/-- Settles O54: each clause by its lemma; construction and a controller reset leave INTE clear. -/
theorem interruptLevels : Obligations.InterruptLevels := by
  refine ⟨fun s n => rfl, fun s n h => ⟨raiseInterrupt_intr_same s n h, rfl,
    fun m hm => raiseInterrupt_intr_other s hm, raiseInterrupt_twice s n⟩, irq_iff, fun c n => irq_of_inte rfl n, ?_⟩
  intro s t v n hv h
  obtain ⟨r, rfl⟩ := exec_reset (i := .usbcmd (.write v)) hv h
  exact irq_of_inte rfl n

end Sys2Proof.Machine
end

section
/-! PROOFS. The MMIO window: which register an access reaches, and what accesses of every width and alignment do (R82, R84,
R87, R250). -/

namespace Sys2Proof.Machine

open Sys2Proof.Claims

/-! ### Words of the spec -/

/-- Settles O4: the decoder computes on each word. -/
theorem wordsOfTheSpecDecode : Obligations.WordsOfTheSpecDecode :=
  ⟨rfl, rfl, rfl, rfl, rfl, rfl, rfl, rfl, rfl, rfl, rfl⟩

/-! ### The address map -/

/-- At this hardware the decoder reads an access made to reach a register as that register's row (R87). -/
theorem reachedAt_offset (r : Reg) (hr : r.present Config.hardware = true) :
    reachedAt (r.offset Config.hardware) (instrOfReg r) := by
  intro acc hacc
  rw [decode, instrOfAccess, regOf_toMmio (by decide) r acc hr hacc]

/-- The register of port p found at offset q of its set stands there (R35). -/
theorem offset_of_portRegAt {c : Config} {p q : Nat} {r : Reg} (h : portRegAt p q = some r) :
    r.offset c = c.capLength + 0x400 + 0x10 * p + q := by
  unfold portRegAt at h
  split_ifs at h <;> cases h <;> simp only [Reg.offset] <;> omega

/-- The register of interrupter n found at offset q of its set stands there (R37). -/
theorem offset_of_intrRegAt {c : Config} {n q : Nat} {r : Reg} (h : intrRegAt n q = some r) :
    r.offset c = c.rtsOff + 0x20 + 0x20 * n + q := by
  unfold intrRegAt at h
  split_ifs at h <;> cases h <;> simp only [Reg.offset] <;> omega

/-- A register found at an offset of the Capability bank stands there (R33, R252). -/
theorem offset_of_capRegAt {c : Config} {x : Nat} {r : Reg} (h : capRegAt x = some r) : r.offset c = x := by
  unfold capRegAt at h
  split_ifs at h <;> cases h <;> simp only [Reg.offset] <;> omega

/-- A register found at an offset of the Operational bank stands there (R34, R35). -/
theorem offset_of_opRegAt {c : Config} {x : Nat} {r : Reg} (h : opRegAt c x = some r) :
    r.offset c = c.capLength + x := by
  unfold opRegAt at h
  split_ifs at h with _ _ _ _ _ _ _ _ _ hp
  iterate 9 cases h; simp only [Reg.offset]; omega
  rw [offset_of_portRegAt h]
  omega

/-- A register found at an offset of the Runtime bank stands there (R36, R37). -/
theorem offset_of_rtRegAt {c : Config} {x : Nat} {r : Reg} (h : rtRegAt c x = some r) :
    r.offset c = c.rtsOff + x := by
  unfold rtRegAt at h
  split_ifs at h with h0 hn
  · cases h
    simp only [Reg.offset]; omega
  · rw [offset_of_intrRegAt h]
    omega

/-- A register found at an aligned offset of the window stands there (R87). -/
theorem offset_of_regAt {c : Config} (hc : c.ok = true) {off : Nat} {r : Reg} (h4 : off % 4 = 0)
    (h : regAt c off = some r) : r.offset c = off := by
  have hb := config_ok_banks hc
  unfold regAt at h
  split_ifs at h with hcap hop hrt hdb
  · exact offset_of_capRegAt h
  · rw [offset_of_opRegAt h]; omega
  · rw [offset_of_rtRegAt h]; omega
  · cases h
    simp only [Reg.offset]; omega

/-- An access that reaches a register does so in the word where the register stands (R84, R87, R250). -/
theorem word_of_regOf {c : Config} (hc : c.ok = true) {a : MmioAccess} {r : Reg} {acc : Access}
    (h : regOf c a = some (r, acc)) : r.offset c = a.off - a.off % 4 := by
  unfold regOf at h
  split at h
  · next hr =>
    cases h
    exact offset_of_regAt hc (by omega) hr
  · cases h

/-- An access that reaches no register is out of range (R84). -/
theorem decode_access_of_none {c : Config} {a : MmioAccess} (h : regOf c a = none) :
    decode c (.access a) = .outOfRange a := by
  rw [decode, instrOfAccess, h]

/-- Settles O5: a register is reached at its own offset; conversely the word an access reaches is a register's, and each
register lies in one of the ranges. -/
theorem mmioAddressMap : Obligations.MmioAddressMap := by
  have reached := reachedAt_offset
  refine ⟨reached .caplengthHciversion rfl, reached .hcsparams1 rfl, reached .hcsparams2 rfl, reached .hcsparams3 rfl,
    reached .hccparams1 rfl, reached .dboff rfl, reached .rtsoff rfl, reached .usbcmd rfl, reached .usbsts rfl,
    reached .pagesize rfl, reached .dnctrl rfl, reached .crcrLo rfl, reached .crcrHi rfl, reached .dcbaapLo rfl,
    reached .dcbaapHi rfl, reached .config rfl, fun p hp => ?_, reached .mfindex rfl, fun n hn => ?_, fun k hk => ?_,
    fun a ha => ?_⟩
  · have hpres := decide_eq_true hp
    exact ⟨reached (.portsc p) hpres, reached (.portpmsc p) hpres, reached (.portli p) hpres,
      reached (.porthlpmc p) hpres⟩
  · have hpres := decide_eq_true hn
    exact ⟨reached (.iman n) hpres, reached (.imod n) hpres, reached (.erstsz n) hpres, reached (.erstbaLo n) hpres,
      reached (.erstbaHi n) hpres, reached (.erdpLo n) hpres, reached (.erdpHi n) hpres⟩
  · exact reached (.db k) (decide_eq_true hk)
  · refine decode_access_of_none (Option.eq_none_iff_forall_ne_some.2 fun ⟨r, acc⟩ hr => ha ?_)
    have hword := word_of_regOf (by decide) hr
    have hpres := (regOf_spec _ _ _ _ hr).1
    cases r <;> simp only [Reg.offset, Config.hardware] at hword
    case portsc p | portpmsc p | portli p | porthlpmc p =>
      have hp : p < 8 := of_decide_eq_true hpres
      omega
    case iman n | imod n | erstsz n | erstbaLo n | erstbaHi n | erdpLo n | erdpHi n =>
      have hn : n < 8 := of_decide_eq_true hpres
      omega
    case db i =>
      have hi : i ≤ 32 := of_decide_eq_true hpres
      omega
    all_goals omega

/-! ### Registers the configuration does not have -/

/-- A register that answers like one that does not exist reads 0 and writes nothing (R84). -/
theorem registerLaw_absent {mk : Access → Instr} {s : State}
    (h : ∀ a, exec (mk a) s = accessRegister a 0 ignoreWrite s) : RegisterLaw mk s 0 (fun _ => s) :=
  ⟨fun _ => h _, fun _ => h _, fun _ => h _⟩

/-- Settles O13: the port, interrupter or doorbell number is past the last one, so each access answers as one to no
register. -/
theorem outOfRangeAccesses : Obligations.OutOfRangeAccesses := by
  intro s
  refine ⟨fun a => rfl, fun p hp => ?_, fun n hn => ?_, fun i hi => ?_⟩
  · exact ⟨registerLaw_absent fun _ => if_neg hp.not_gt, registerLaw_absent fun _ => if_neg hp.not_gt,
      fun _ => registerLaw_absent fun _ => if_neg hp.not_gt⟩
  · refine ⟨?_, ?_, ?_, ?_, ?_, ?_, ?_⟩ <;> exact registerLaw_absent fun _ => if_neg hn.not_gt
  · exact registerLaw_absent fun _ => if_neg hi.not_ge

end Sys2Proof.Machine
end

section
/-! PROOFS. What the accesses of each width and alignment do, through the register they reach (R82, R84, R85). -/

namespace Sys2Proof.Machine

open Sys2Proof.Claims

/-! ### The access to a register -/

/-- Every register but MFINDEX is one whose read has no effect: an access returns a lane of its value or makes its write
(R82, R85). -/
theorem exec_instrOfReg (s : State) {r : Reg} (hr : r ≠ .mfindex) :
    ∃ value write, ∀ acc, exec (instrOfReg r acc) s = accessRegister acc value write s := by
  have port (p : Nat) (value : Port → Word) (write : Word → State → State) :
      ∃ v w, ∀ acc, accessPort p acc value write s = accessRegister acc v w s := by
    unfold accessPort
    split <;> exact ⟨_, _, fun _ => rfl⟩
  have intr (n : Nat) (value : Interrupter → Word) (write : Word → State → State) :
      ∃ v w, ∀ acc, accessIntr n acc value write s = accessRegister acc v w s := by
    unfold accessIntr
    split <;> exact ⟨_, _, fun _ => rfl⟩
  cases r
  case mfindex => exact absurd rfl hr
  case portsc p => exact port p _ _
  case portpmsc p => exact port p _ _
  case portli p | porthlpmc p => exact port p (fun _ => 0) ignoreWrite
  case iman n | imod n | erstsz n | erstbaLo n | erstbaHi n | erdpLo n | erdpHi n =>
    simp only [instrOfReg, exec, execIman, execImod, execErstsz, execErstbaLo, execErstbaHi, execErdpLo, execErdpHi]
    exact intr n _ _
  case db i =>
    simp only [instrOfReg, exec, execDb]
    split <;> exact ⟨_, _, fun _ => rfl⟩
  case dcbaapLo | dcbaapHi | config =>
    simp only [instrOfReg, exec, execDcbaapLo, execDcbaapHi, execConfig]
    exact ⟨_, _, fun _ => rfl⟩
  all_goals exact ⟨_, _, fun _ => rfl⟩

/-- A read of a register does the same whatever its lane, and returns its lane of one value (R82, R85, R280). -/
theorem exec_read (s : State) (r : Reg) :
    ∃ dr w, ∀ lane, exec (instrOfReg r (.read lane)) s
      = .next { s with draws := dr, result := .value (laneValue lane w) } := by
  by_cases hr : r = .mfindex
  · subst hr
    rcases drawMfindex_spec s with ⟨v, l, -, hd⟩ | ⟨-, hd⟩ <;>
      exact ⟨_, _, fun lane => by simp only [instrOfReg, exec, execMfindex, hd]; rfl⟩
  · obtain ⟨value, write, h⟩ := exec_instrOfReg s hr
    exact ⟨s.draws, value, fun lane => h _⟩

/-- A 32-bit write of a register answers a next state and returns nothing (R82, R420). -/
theorem exec_write (s : State) (r : Reg) (v : Word) :
    ∃ t, exec (instrOfReg r (.write v)) s = .next t ∧ t.result = .none := by
  by_cases hr : r = .mfindex
  · subst hr
    exact ⟨_, rfl, rfl⟩
  · obtain ⟨value, write, h⟩ := exec_instrOfReg s hr
    exact ⟨_, h _, rfl⟩

/-- A 1- or 2-byte write of a register changes nothing (R82). -/
theorem exec_writeNarrow (s : State) (r : Reg) (lane : Lane) :
    exec (instrOfReg r (.writeNarrow lane)) s = .next { s with result := .none } := by
  by_cases hr : r = .mfindex
  · subst hr
    rfl
  · obtain ⟨value, write, h⟩ := exec_instrOfReg s hr
    exact h _

/-! ### The access to the window -/

/-- An access that R82 makes nothing of, or whose word is no register's, reaches none (R82, R84). -/
theorem regOf_eq_none {c : Config} {a : MmioAccess} (h : accessOf a = none ∨ regAt c (a.off - a.off % 4) = none) :
    regOf c a = none := by
  unfold regOf
  rcases h with h | h <;> rw [h]
  cases accessOf a <;> rfl

/-- An access reaches the register of its word, with the lane R82 gives (R82, R87). -/
theorem regOf_eq_some {c : Config} {a : MmioAccess} {acc : Access} {r : Reg} (ha : accessOf a = some acc)
    (hr : regAt c (a.off - a.off % 4) = some r) : regOf c a = some (r, acc) := by
  rw [regOf, ha, hr]

/-- The row of an access that reaches a register (R250). -/
theorem decode_access_of_some {c : Config} {a : MmioAccess} {acc : Access} {r : Reg} (h : regOf c a = some (r, acc)) :
    decode c (.access a) = instrOfReg r acc := by
  rw [decode, instrOfAccess, h]

/-- Two accesses in one direction, of one word and one lane, do the same (R82, R84). -/
theorem exec_access_congr (c : Config) (s : State) {a b : MmioAccess} (hacc : accessOf a = accessOf b)
    (hword : a.off - a.off % 4 = b.off - b.off % 4) (hdir : a.isWrite = b.isWrite) :
    exec (decode c (.access a)) s = exec (decode c (.access b)) s := by
  have hreg : regOf c a = regOf c b := by rw [regOf, regOf, hacc, hword]
  match h : regOf c b with
  | some (r, acc) => rw [decode_access_of_some h, decode_access_of_some (hreg.trans h)]
  | none =>
    rw [decode_access_of_none h, decode_access_of_none (hreg.trans h)]
    simp only [exec, execOutOfRange, hdir]

/-- The lane of an access that reaches a register is the one R82 gives. -/
theorem accessOf_of_regOf {c : Config} {a : MmioAccess} {acc : Access} {r : Reg} (h : regOf c a = some (r, acc)) :
    accessOf a = some acc := by
  unfold regOf at h
  split at h
  · next ha _ => cases h; exact ha
  · cases h

/-- What R82 makes of a read is a read. -/
theorem accessOf_read {a : MmioAccess} {acc : Access} (hd : a.isWrite = false) (h : accessOf a = some acc) :
    ∃ lane, acc = .read lane := by
  unfold accessOf at h
  simp only [hd, Bool.false_eq_true, if_false] at h
  split_ifs at h <;> cases h <;> exact ⟨_, rfl⟩

/-- What R82 makes of a write is a write. -/
theorem accessOf_write {a : MmioAccess} {acc : Access} (hd : a.isWrite = true) (h : accessOf a = some acc) :
    (∃ v, acc = .write v) ∨ ∃ lane, acc = .writeNarrow lane := by
  unfold accessOf at h
  simp only [hd, if_true] at h
  split_ifs at h <;> cases h
  · exact .inl ⟨_, rfl⟩
  · exact .inr ⟨_, rfl⟩
  · exact .inr ⟨_, rfl⟩

/-- A lane of a 32-bit value is below 2^32 (R82). -/
theorem laneValue_lt (lane : Lane) (w : Word) : (laneValue lane w).toNat < 2 ^ 32 := by
  cases lane with
  | full => simp only [laneValue, BitVec.toNat_setWidth]; omega
  | half k => simp only [laneValue, BitVec.toNat_setWidth]; omega
  | byte k => simp only [laneValue, BitVec.toNat_setWidth]; omega

/-- A read of the window changes the draws at most, and returns a value below 2^32 (R82, R84, R280). -/
theorem exec_access_read (c : Config) (s : State) {a : MmioAccess} (hd : a.isWrite = false) :
    ∃ dr x, x.toNat < 2 ^ 32 ∧ exec (decode c (.access a)) s = .next { s with draws := dr, result := .value x } := by
  match h : regOf c a with
  | some (r, acc) =>
    obtain ⟨lane, rfl⟩ := accessOf_read hd (accessOf_of_regOf h)
    obtain ⟨dr, w, hr⟩ := exec_read s r
    exact ⟨dr, _, laneValue_lt lane w, by rw [decode_access_of_some h, hr]⟩
  | none => exact ⟨s.draws, 0, by decide, by rw [decode_access_of_none h, exec, execOutOfRange, hd]; rfl⟩

/-- A write of the window answers a next state and returns nothing (R82, R84, R420). -/
theorem exec_access_write (c : Config) (s : State) {a : MmioAccess} (hd : a.isWrite = true) :
    ∃ t, exec (decode c (.access a)) s = .next t ∧ t.result = .none := by
  match h : regOf c a with
  | some (r, acc) =>
    rw [decode_access_of_some h]
    rcases accessOf_write hd (accessOf_of_regOf h) with ⟨v, rfl⟩ | ⟨lane, rfl⟩
    · exact exec_write s r v
    · exact ⟨_, exec_writeNarrow s r lane, rfl⟩
  | none =>
    rw [decode_access_of_none h, exec, execOutOfRange, hd]
    exact ⟨_, rfl, rfl⟩

/-! ### Widths and alignments -/

/-- An access that R82 makes nothing of reads 0 and writes nothing. -/
theorem exec_access_of_none (c : Config) (s : State) {a : MmioAccess} (h : accessOf a = none) :
    exec (decode c (.access a)) s = .next { s with result := if a.isWrite then .none else .value 0 } := by
  rw [decode_access_of_none (regOf_eq_none (.inl h)), exec, execOutOfRange]

/-- Misaligned accesses and those of other widths are none that R82 gives a meaning. -/
theorem accessOf_misaligned {off width : Nat} {isWrite : Bool} {value : BitVec 64}
    (h : off % width ≠ 0 ∨ (width ≠ 1 ∧ width ≠ 2 ∧ width ≠ 4 ∧ width ≠ 8)) :
    accessOf ⟨off, width, isWrite, value⟩ = none := by
  unfold accessOf
  dsimp only
  rw [if_neg (by rintro (⟨rfl, h4⟩ | ⟨rfl, h8⟩) <;> omega), if_neg (by rintro ⟨rfl, h2⟩; omega),
    if_neg (by rintro rfl; omega)]

/-- The full lane of a 32-bit value is the value (R82). -/
theorem laneValue_full_toNat (w : Word) : (laneValue .full w).toNat = w.toNat :=
  BitVec.toNat_setWidth_of_le (by decide)

/-- The access of an aligned width of 1 or 2 bytes, and the bytes its lane is of a 32-bit value (R82). -/
theorem accessOf_narrow {off width : Nat} (hw : width = 1 ∨ width = 2) (h : off % width = 0) :
    ∃ lane, (∀ isWrite value, accessOf ⟨off, width, isWrite, value⟩
        = some (if isWrite then .writeNarrow lane else .read lane))
      ∧ ∀ w : Word, laneValue lane w
        = BitVec.ofNat 64 ((laneValue .full w).toNat / 2 ^ (8 * (off % 4)) % 2 ^ (8 * width)) := by
  rcases hw with rfl | rfl
  · refine ⟨.byte ⟨off % 4, by omega⟩, fun _ _ => by simp [accessOf], fun w => ?_⟩
    apply BitVec.eq_of_toNat_eq
    rw [laneValue_full_toNat]
    simp [laneValue, field, Nat.shiftRight_eq_div_pow]
  · refine ⟨.half ⟨off % 4 / 2, by omega⟩, fun _ _ => by simp [accessOf, h], fun w => ?_⟩
    have hbits : 16 * (off % 4 / 2) = 8 * (off % 4) := by omega
    apply BitVec.eq_of_toNat_eq
    rw [laneValue_full_toNat]
    simp [laneValue, field, Nat.shiftRight_eq_div_pow, hbits]

/-- An aligned read of 1 or 2 bytes is the 32-bit read of its word with the bytes of its lane (R82). -/
theorem exec_access_narrowRead (c : Config) (s : State) {off width : Nat} (value : BitVec 64)
    (hw : width = 1 ∨ width = 2) (h : off % width = 0) {t : State} {v : BitVec 64}
    (he : exec (decode c (.access ⟨off - off % 4, 4, false, 0⟩)) s = .next t) (hv : t.result = .value v) :
    exec (decode c (.access ⟨off, width, false, value⟩)) s
      = .next { t with result := .value (BitVec.ofNat 64 (v.toNat / 2 ^ (8 * (off % 4)) % 2 ^ (8 * width))) } := by
  obtain ⟨lane, hacc, hlane⟩ := accessOf_narrow hw h
  have hfull : accessOf ⟨off - off % 4, 4, false, 0⟩ = some (.read .full) := by
    have h4 : (off - off % 4) % 4 = 0 := by omega
    simp [accessOf, h4]
  have hword : off - off % 4 - (off - off % 4) % 4 = off - off % 4 := by omega
  match hr : regAt c (off - off % 4) with
  | some r =>
    obtain ⟨dr, w, hread⟩ := exec_read s r
    rw [decode_access_of_some (regOf_eq_some hfull (by rw [hword, hr])), hread] at he
    cases he
    cases hv
    rw [decode_access_of_some (regOf_eq_some (hacc false value) hr), ← hlane]
    exact hread lane
  | none =>
    rw [decode_access_of_none (regOf_eq_none (.inr (by rw [hword, hr])))] at he
    cases he
    cases hv
    rw [decode_access_of_none (regOf_eq_none (.inr hr))]
    simp [exec, execOutOfRange]

/-- An aligned write of 1 or 2 bytes changes nothing (R82). -/
theorem exec_access_narrowWrite (c : Config) (s : State) {off width : Nat} (value : BitVec 64)
    (hw : width = 1 ∨ width = 2) (h : off % width = 0) :
    exec (decode c (.access ⟨off, width, true, value⟩)) s = .next { s with result := .none } := by
  obtain ⟨lane, hacc, -⟩ := accessOf_narrow hw h
  match hr : regAt c (off - off % 4) with
  | some r =>
    rw [decode_access_of_some (regOf_eq_some (hacc true value) hr)]
    exact exec_writeNarrow s r lane
  | none =>
    rw [decode_access_of_none (regOf_eq_none (.inr hr))]
    rfl

/-- An aligned 8-byte access is first the 32-bit access of its low half (R82; log 16). -/
theorem exec_access_lowHalf (c : Config) (s : State) {off : Nat} (h : off % 8 = 0) (isWrite : Bool) (v : BitVec 64) :
    exec (decode c (.access ⟨off, 8, isWrite, v⟩)) s
      = exec (decode c (.access ⟨off, 4, isWrite, BitVec.ofNat 64 (v.toNat % 2 ^ 32)⟩)) s := by
  refine exec_access_congr c s ?_ rfl rfl
  have h4 : off % 4 = 0 := by omega
  have hlow : field (BitVec.ofNat 64 (v.toNat % 2 ^ 32)) 0 32 = field v 0 32 := by
    apply BitVec.eq_of_toNat_eq
    simp [field]
  simp only [accessOf, h, h4, hlow]
  simp

/-- Settles O6: each width and alignment by its lemma. -/
theorem narrowAndMisalignedAccesses : Obligations.NarrowAndMisalignedAccesses := by
  intro s off width value
  refine ⟨fun hw h t v => exec_access_narrowRead s.cfg s value hw h, exec_access_narrowWrite s.cfg s value,
    fun h => ⟨?_, ?_⟩, fun h isWrite => exec_access_lowHalf s.cfg s h isWrite value⟩
  · exact exec_access_of_none s.cfg s (accessOf_misaligned h)
  · exact exec_access_of_none s.cfg s (accessOf_misaligned h)

end Sys2Proof.Machine
end

section
/-! PROOFS. The execution of a consumed TRB: its two meanings, the one event it posts, the bytes it stores, and the command
drain around it (R90, R92, R96, R215, R320, R372, R374). -/

namespace Sys2Proof.Machine

open Sys2Proof.Claims

/-! ### The two meanings of a TRB -/

/-- What an instruction means as a TRB: f on the command ring, g on a transfer ring, each with an outcome of its own, and
only a Normal or a Data Stage TRB stores to guest memory (R321, R384). -/
structure Means (i : Instr) (f : State → State × CmdResult) (g : Nat → Nat → DeviceSlot → State → State × XferResult) :
    Prop where
  runs : ∀ s, exec i s = s.runTrb f g
  command : ∀ s, CommandOutcome s i (f s).1
  transfer : ∀ sid e d s, TransferOutcome i sid e d s (g sid e d s).1
  keeps : (∀ x, i ≠ .normal x ∧ i ≠ .dataStage x) → ∀ sid e d s, (g sid e d s).1.mem = s.mem

/-- A transfer TRB is a TRB Error on the command ring (R346). -/
theorem Means.ofTransfer {i : Instr} {slot : BitVec 8} {g : Nat → Nat → DeviceSlot → State → State × XferResult}
    (hrun : ∀ s, exec i s = s.runTrb (commandTrbError slot) g)
    (hg : ∀ sid e d s, TransferOutcome i sid e d s (g sid e d s).1)
    (hk : (∀ x, i ≠ .normal x ∧ i ≠ .dataStage x) → ∀ sid e d s, (g sid e d s).1.mem = s.mem) :
    ∃ f g, Means i f g :=
  ⟨_, g, hrun, fun _ => .unchanged, hg, hk⟩

/-- A command TRB is a TRB Error on a transfer ring (R391). -/
theorem Means.ofCommand {i : Instr} {f : State → State × CmdResult} (hrun : ∀ s, exec i s = s.runTrb f transferTrbError)
    (hf : ∀ s, CommandOutcome s i (f s).1) : ∃ f g, Means i f g :=
  ⟨f, _, hrun, hf, transferTrbError_outcome i, fun _ _ _ _ _ => rfl⟩

/-- A device's answer to a Setup Stage is not stored in guest memory (R386). -/
theorem setupStage_mem (t : Trb) (sid e : Nat) (d : DeviceSlot) (s : State) :
    (setupStage t sid e d s).1.mem = s.mem := by
  obtain ⟨dr, hc⟩ := callDevice_spec s (.handleControl d.dev (leBytes t.parameter 8))
  unfold setupStage
  simp only [hc]
  split <;> rfl

/-- Every TRB has its two meanings (R321, R384). -/
theorem exec_trb {i : Instr} (ht : isTrb i = true) : ∃ f g, Means i f g := by
  cases i
  case normal x => exact Means.ofTransfer (fun _ => rfl) (normal_outcome x) (fun h => absurd rfl (h x).1)
  case dataStage x => exact Means.ofTransfer (fun _ => rfl) (dataStage_outcome x) (fun h => absurd rfl (h x).2)
  case setupStage x => exact Means.ofTransfer (fun _ => rfl) (setupStage_outcome x) (fun _ => setupStage_mem x)
  case statusStage x => exact Means.ofTransfer (fun _ => rfl) (statusStage_outcome x) (fun _ _ _ _ _ => rfl)
  case noop => exact Means.ofTransfer (fun _ => rfl) (fun _ _ _ _ => .unchanged .nothing _ _) (fun _ _ _ _ _ => rfl)
  case enableSlot x => exact Means.ofCommand (fun _ => rfl) (enableSlot_outcome x)
  case disableSlot x => exact Means.ofCommand (fun _ => rfl) (slotCommand_outcome x (disableSlot_outcome x))
  case addressDevice x => exact Means.ofCommand (fun _ => rfl) (slotCommand_outcome x (addressDevice_outcome x))
  case configureEndpoint x => exact Means.ofCommand (fun _ => rfl) (slotCommand_outcome x (configureEndpoint_outcome x))
  case evaluateContext x => exact Means.ofCommand (fun _ => rfl) (slotCommand_outcome x fun _ _ _ _ => .unchanged)
  case resetEndpoint x =>
    exact Means.ofCommand (fun _ => rfl)
      (slotCommand_outcome x (endpointCommand_outcome x fun _ _ _ _ _ _ => .resetEndpoint))
  case stopEndpoint x =>
    exact Means.ofCommand (fun _ => rfl)
      (slotCommand_outcome x (endpointCommand_outcome x fun _ _ _ _ _ _ => .stopEndpoint))
  case setTrDequeuePointer x =>
    exact Means.ofCommand (fun _ => rfl)
      (slotCommand_outcome x (endpointCommand_outcome x fun _ _ _ _ _ _ => .setDequeue))
  case resetDevice x => exact Means.ofCommand (fun _ => rfl) (slotCommand_outcome x (resetDevice_outcome x))
  case noopCommand => exact Means.ofCommand (fun _ => rfl) (fun _ => .unchanged)
  case isoch | link | eventData | forceEvent | negotiateBandwidth | setLatencyToleranceValue | getPortBandwidth
    | forceHeader | transferEvent | commandCompletionEvent | portStatusChangeEvent | bandwidthRequestEvent
    | doorbellEvent | hostControllerEvent | deviceNotificationEvent | mfindexWrapEvent | malformedTrb =>
    exact Means.ofCommand (f := commandTrbError _) (fun _ => rfl) (fun _ => .unchanged)
  all_goals cases ht

/-! ### One event for each TRB -/

/-- A command's own effect leaves the event rings, the configuration, the command ring and guest memory (R321). -/
theorem CommandOutcome.frame {s t : State} {i : Instr} (h : CommandOutcome s i t) :
    t.evRings = s.evRings ∧ t.cfg = s.cfg ∧ t.cmdRing = s.cmdRing ∧ t.mem = s.mem := by
  cases h <;> exact ⟨rfl, rfl, rfl, rfl⟩

/-- A transfer TRB's own effect leaves the event rings and the configuration (R384). -/
theorem TransferOutcome.frame {s t : State} {i : Instr} {sid e : Nat} {d : DeviceSlot}
    (h : TransferOutcome i sid e d s t) : t.evRings = s.evRings ∧ t.cfg = s.cfg := by
  cases h <;> exact ⟨rfl, rfl⟩

/-- A Transfer Event as R117 writes it out. -/
theorem createTransferEvent_eq (a : Addr) (code : BitVec 8) (residual : BitVec 24) (sid : Nat) {e : Nat} (he : e < 32) :
    createTransferEvent a code residual (BitVec.ofNat 8 sid) (BitVec.ofNat 5 e)
      = transferTrb a sid e code.toNat residual.toNat := by
  have hc := code.isLt
  have hr := residual.isLt
  simp only [createTransferEvent, transferTrb, eventStatus, w32, Trb.mk.injEq, true_and]
  constructor <;> apply BitVec.eq_of_toNat_eq <;>
    simp only [toNat_append_eq, BitVec.toNat_ofNat] <;> omega

/-- A TRB on a transfer ring: the cursor moves, the TRB has its effect, and its Transfer Event is posted (R374). -/
theorem runTrb_afterTransfer {s t : State} {f : State → State × CmdResult}
    {g : Nat → Nat → DeviceSlot → State → State × XferResult} {sid e : Nat} (he : e < 32)
    (hu : s.unit = .transfer sid e) (h : s.runTrb f g = .next t) :
    ∃ d code residual, s.slotAt sid = some d
      ∧ t = afterTransfer (g sid e (pastTransfer d e) (s.setSlot sid (some (pastTransfer d e)))).1 d sid e code
          residual := by
  simp only [State.runTrb, hu] at h
  split at h
  · cases h
  · next d hd =>
    rw [createTransferEvent_eq _ _ _ _ he] at h
    exact ⟨d, _, _, hd, (Host.Outcome.next.inj h).symm⟩

/-- Settles O48: by the ring the TRB is on; its own effect leaves the event rings, and the one posting follows it. -/
theorem everyConsumedTrbPostsOneEvent : Obligations.EveryConsumedTrbPostsOneEvent := by
  intro i s t ht h
  obtain ⟨f, g, hm⟩ := exec_trb ht
  rw [hm.runs s] at h
  constructor
  · intro hu
    rw [runTrb_afterCommand s f g hu] at h
    cases h
    obtain ⟨hev, hcfg, hring, -⟩ := (hm.command (pastCommand s)).frame
    refine ⟨?_, _, _, _, _, hev, hcfg, rfl⟩
    obtain ⟨es, r, -, ha⟩ := afterCommand_posted s (f (pastCommand s)).1 (f (pastCommand s)).2.slot.toNat
      (f (pastCommand s)).2.code.toNat (f (pastCommand s)).2.extra.toNat
    rw [ha]
    exact hring
  · intro sid e he hu
    obtain ⟨d, code, residual, hd, ha⟩ := runTrb_afterTransfer he hu h
    obtain ⟨hev, hcfg⟩ := (hm.transfer sid e (pastTransfer d e) (s.setSlot sid (some (pastTransfer d e)))).frame
    exact ⟨d, _, code, residual, hd, hev, hcfg, ha⟩

/-! ### The bytes an instruction stores -/

/-- A write to guest memory stores nothing outside its bytes (R96). -/
theorem memWrite_memGet (s : State) (a : Addr) (bs : List Byte) (x : Nat)
    (h : ∀ k < bs.length, x ≠ (a + BitVec.ofNat 64 k).toNat) : memGet (s.memWrite a bs).2.mem x = memGet s.mem x := by
  obtain ⟨-, -, -, houtside, -⟩ := memWrite_outcome s a bs (s.memWrite a bs).1 (s.memWrite a bs).2 rfl
  exact houtside x h

/-- The end of a Normal TRB stores the device's answer at the buffer, cut to the TRB's length, and nothing elsewhere
(R385). -/
theorem normalDevice_memGet (t : Trb) (sid e : Nat) (d : DeviceSlot) (data : List Byte) (s : State) (x : Nat)
    (h : ∀ resp, idt t = false → (s.callDevice (.handleTransfer d.dev e data)).1 = .ok resp →
      ∀ k < min resp.length (transferLength t).toNat, x ≠ (t.parameter + BitVec.ofNat 64 k).toNat) :
    memGet (normalDevice t sid e d data s).1.mem x = memGet s.mem x := by
  obtain ⟨dr, hc⟩ := callDevice_spec s (.handleTransfer d.dev e data)
  unfold normalDevice
  simp only [hc]
  split
  · rfl
  · rfl
  · next resp _ hresp =>
    split
    · rfl
    · next hidt =>
      have hlen : (resp.take (min resp.length (transferLength t).toNat)).length
          = min resp.length (transferLength t).toNat := by simp
      have hkeep := memWrite_memGet
        { s with calls := s.calls ++ [.handleTransfer d.dev e data], draws := dr } t.parameter
        (resp.take (min resp.length (transferLength t).toNat)) x
        (fun k hk => h resp (by simpa using hidt) hresp k (hlen ▸ hk))
      split <;> exact hkeep

/-- A Normal TRB stores at its buffer only, and with IDT not at all (R385). -/
theorem normal_memGet (t : Trb) (sid e : Nat) (d : DeviceSlot) (s : State) (x : Nat)
    (h : ∀ data s1 resp, idt t = false → s.memRead t.parameter (transferLength t).toNat = (some data, s1) →
      (s1.callDevice (.handleTransfer d.dev e data)).1 = .ok resp →
      ∀ k < min resp.length (transferLength t).toNat, x ≠ (t.parameter + BitVec.ofNat 64 k).toNat) :
    memGet (normal t sid e d s).1.mem x = memGet s.mem x := by
  unfold normal
  split
  · next hidt => exact normalDevice_memGet t sid e d _ s x (fun _ hno => by rw [hidt] at hno; cases hno)
  · obtain ⟨dr, hr, -⟩ := memRead_spec s t.parameter (transferLength t).toNat
    have hread : (s.memRead t.parameter (transferLength t).toNat).2.mem = s.mem := by rw [hr]
    dsimp only
    split
    · exact congrArg (memGet · x) hread
    · next data hdata =>
      refine (normalDevice_memGet t sid e d data _ x fun resp hidt => ?_).trans (congrArg (memGet · x) hread)
      exact h data _ resp hidt (Prod.ext hdata rfl)

/-- A Data Stage stores at its buffer only, and only where it is IN (R387). -/
theorem dataStage_memGet (t : Trb) (sid e : Nat) (d : DeviceSlot) (s : State) (x : Nat)
    (h : dirIn t = true → ∀ k < min d.ctlResp.length (transferLength t).toNat,
      x ≠ (t.parameter + BitVec.ofNat 64 k).toNat) :
    memGet (dataStage t sid e d s).1.mem x = memGet s.mem x := by
  unfold dataStage
  split
  · next hin =>
    have hlen : (d.ctlResp.take (min d.ctlResp.length (transferLength t).toNat)).length
        = min d.ctlResp.length (transferLength t).toNat := by simp
    have hkeep := memWrite_memGet s t.parameter (d.ctlResp.take (min d.ctlResp.length (transferLength t).toNat)) x
      (fun k hk => h hin k (hlen ▸ hk))
    dsimp only
    split <;> exact hkeep
  · rfl

section
variable {s t : State} {sid e : Nat} {d : DeviceSlot}

/-- The bytes a Normal TRB stores: the answer of the device to the data it read (R385). -/
theorem storedRange_normal {x : Trb} {data : List Byte} {s1 : State} {resp : List Byte}
    (hu : s.unit = .transfer sid e) (hd : s.slotAt sid = some d) (hi : idt x = false)
    (hr : (s.setSlot sid (some (pastTransfer d e))).memRead x.parameter (transferLength x).toNat = (some data, s1))
    (hc : (s1.callDevice (.handleTransfer d.dev e data)).1 = .ok resp) :
    storedRange (.normal x) s = some (x.parameter, min resp.length (transferLength x).toNat) := by
  simp [storedRange, hu, hd, hi, hr, hc]

/-- The bytes a Data Stage stores: the response to its Setup Stage (R387). -/
theorem storedRange_dataStage {x : Trb} (hu : s.unit = .transfer sid e) (hd : s.slotAt sid = some d)
    (hin : dirIn x = true) :
    storedRange (.dataStage x) s = some (x.parameter, min d.ctlResp.length (transferLength x).toNat) := by
  simp [storedRange, hu, hd, hin]

/-- A TRB's posting leaves guest memory as its meaning on its ring made it (R374). -/
theorem runTrb_transfer_mem {f : State → State × CmdResult} {g : Nat → Nat → DeviceSlot → State → State × XferResult}
    (hu : s.unit = .transfer sid e) (h : s.runTrb f g = .next t) :
    ∃ d, s.slotAt sid = some d
      ∧ t.mem = (g sid e (pastTransfer d e) (s.setSlot sid (some (pastTransfer d e)))).1.mem := by
  obtain ⟨d, es, r, hd, -, rfl⟩ := runTrb_transfer_posted hu h
  exact ⟨d, hd, rfl⟩

/-- On the command ring no TRB stores to guest memory (R321, R346). -/
theorem Means.command_mem {i : Instr} {f : State → State × CmdResult}
    {g : Nat → Nat → DeviceSlot → State → State × XferResult} (hm : Means i f g) (hu : s.unit = .command)
    (h : s.runTrb f g = .next t) : t.mem = s.mem := by
  obtain ⟨es, r, -, ha⟩ := afterCommand_posted s (f (pastCommand s)).1 (f (pastCommand s)).2.slot.toNat
    (f (pastCommand s)).2.code.toNat (f (pastCommand s)).2.extra.toNat
  rw [runTrb_afterCommand s f g hu, ha] at h
  cases h
  obtain ⟨-, -, -, hmem⟩ := (hm.command (pastCommand s)).frame
  exact hmem

/-- An instruction that executes no TRB stores nothing to guest memory (R96). -/
theorem Effect.mem {i : Instr} (h : Effect s i t) (ht : isTrb i = false) : t.mem = s.mem := by
  cases h with
  | transfer ht' => cases ht.symm.trans ht'
  | _ => rfl

/-- A TRB stores to guest memory the bytes of its range at most (R96, R385, R387). -/
theorem exec_trb_memGet {i : Instr} (ht : isTrb i = true) (h : exec i s = .next t) (x : Nat)
    (hx : ∀ a n, storedRange i s = some (a, n) → ∀ k < n, x ≠ (a + BitVec.ofNat 64 k).toNat) :
    memGet t.mem x = memGet s.mem x := by
  obtain ⟨f, g, hm⟩ := exec_trb ht
  have hrun := (hm.runs s).symm.trans h
  rcases unit_cases s with hu | ⟨sid, e, hu⟩
  · rw [hm.command_mem hu hrun]
  · by_cases hn : ∃ y, i = .normal y
    · obtain ⟨y, rfl⟩ := hn
      obtain ⟨d, hd, hmem⟩ := runTrb_transfer_mem (g := normal y) hu h
      rw [hmem, normal_memGet]
      · rfl
      · exact fun data s1 resp hi hr hc => hx _ _ (storedRange_normal hu hd hi hr hc)
    · by_cases hds : ∃ y, i = .dataStage y
      · obtain ⟨y, rfl⟩ := hds
        obtain ⟨d, hd, hmem⟩ := runTrb_transfer_mem (g := dataStage y) hu h
        rw [hmem, dataStage_memGet]
        · rfl
        · exact fun hin => hx _ _ (storedRange_dataStage (d := d) hu hd hin)
      · obtain ⟨d, hd, hmem⟩ := runTrb_transfer_mem hu hrun
        rw [hmem, hm.keeps fun y => ⟨fun hy => hn ⟨y, hy⟩, fun hy => hds ⟨y, hy⟩⟩]
        rfl

end

/-- Settles O49: a controller reset and an instruction that executes no TRB leave guest memory; a TRB stores to its range
at most. -/
theorem instructionsStoreOnlyToTheirBuffer : Obligations.InstructionsStoreOnlyToTheirBuffer := by
  intro i s t h x hx
  cases ht : isTrb i with
  | true => exact exec_trb_memGet ht h x hx
  | false =>
    cases hr : isReset i with
    | true =>
      obtain ⟨r, rfl⟩ := exec_reset hr h
      rfl
    | false => rw [(exec_effect hr h).mem ht]

/-! ### The command drain -/

/-- An outcome that a function of its next state makes a next state was one. -/
theorem mapNext_eq_next {f : State → State} {o : Out} {t : State} (h : mapNext f o = .next t) :
    ∃ t1, o = .next t1 ∧ t = f t1 := by
  cases o with
  | next t1 => exact ⟨t1, rfl, (Host.Outcome.next.inj h).symm⟩
  | fault r => cases h
  | refused r => cases h

/-- A step that fetches nothing is quiet (R90). -/
theorem step_of_no_fetch {s : State} (h : fetch s = none) : step s = .next (quiet s) := by
  simp [step, stepOf, h]

/-- A drain that holds the lock and has no next TRB ends (R320, R374). -/
theorem step_locked_end {s : State} {x : Task} (hl : s.locked = some x) (hn : nextTrb s x.work = none) :
    step s = .next (endAccess { s with locked := none } x) := by
  have hf : fetch s = none := by
    unfold fetch
    rw [hl]
    simp only [hn]
  rw [step_of_no_fetch hf, quiet, hl]

/-- The end of an access as the statements write it: the raise, then the second half (R82, R320, R431). -/
theorem endAccess_eq (s : State) (x : Task) :
    endAccess s x = { raisedIf x.work.posted s with result := .none, tasks := s.tasks ++ secondHalf x.high } := by
  unfold endAccess raisedIf secondHalf
  cases x.work.posted <;> cases x.high <;> simp <;> rfl

/-- Settles O45: at an empty ring the drain ends; at the next TRB, the TRB's own execution leaves the inbox and the
accesses in progress. -/
theorem commandDrainEnds : Obligations.CommandDrainEnds := by
  intro s p h hl
  refine ⟨fun hempty => ?_, fun hne t hstep => ?_⟩
  · rw [step_locked_end hl (by simp [nextTrb, hempty]), endAccess_eq]
    cases p <;> rfl
  · rw [step_of_fetch (fetch_locked hl (nextTrb_cmdDrain p hne))] at hstep
    obtain ⟨t1, he, rfl⟩ := mapNext_eq_next hstep
    have ht := isTrb_instrOfRaw (s.cmdRing.at s.cmdRing.deq)
    obtain ⟨-, -, hinbox⟩ := (exec_effect (isReset_of_isTrb ht) he).fixed
    obtain ⟨-, htasks⟩ := exec_trb_fields he ht
    obtain ⟨hring, -⟩ := (everyConsumedTrbPostsOneEvent _ _ _ ht he).1 rfl
    exact ⟨hinbox, htasks, hring, rfl⟩

end Sys2Proof.Machine
end

section
/-! PROOFS. Accesses of 8 bytes: the low half in the step that takes the access, the high half in a step of its own (R82, R83,
R90; log 2, 3, 16). -/

namespace Sys2Proof.Machine

open Sys2Proof.Claims

section
variable {s t : State}

/-- From s to t the accesses in progress and the second half to come are left alone, or a drain has started, with or
without the lock, and has taken the second half with it (R82, R290, R320, R374, R380). -/
def HandsOver (s t : State) : Prop :=
  (t.cont = s.cont ∧ t.locked = s.locked ∧ t.tasks = s.tasks)
    ∨ (t.cont = none ∧ ((∃ w, t.locked = some ⟨w, s.cont⟩ ∧ t.tasks = s.tasks)
      ∨ ∃ w, t.locked = s.locked ∧ t.tasks = s.tasks ++ [⟨w, s.cont⟩]))

/-- Short of a controller reset, only the doorbells start a drain (R290, R380). -/
theorem Effect.handsOver {i : Instr} (h : Effect s i t) : HandsOver s t := by
  cases h with
  | commandDrain | atomicDrain => exact .inr ⟨rfl, .inl ⟨_, rfl, rfl⟩⟩
  | splitDrain => exact .inr ⟨rfl, .inr ⟨_, rfl, rfl⟩⟩
  | _ => exact .inl ⟨rfl, rfl, rfl⟩

/-- Every instruction leaves the second half to come, or hands it to a drain (R82, R461; log 16). -/
theorem exec_handsOver {i : Instr} (h : exec i s = .next t) : HandsOver s t := by
  cases hr : isReset i with
  | true =>
    obtain ⟨r, rfl⟩ := exec_reset hr h
    exact .inl ⟨rfl, rfl, rfl⟩
  | false => exact (exec_effect hr h).handsOver

/-- The second half of an aligned 8-byte access (R82). -/
theorem highHalfOf_eight {off : Nat} (h : off % 8 = 0) (isWrite : Bool) (v : BitVec 64) :
    highHalfOf ⟨off, 8, isWrite, v⟩ = some ⟨off + 4, 4, isWrite, BitVec.ofNat 64 (v.toNat / 2 ^ 32)⟩ := by
  have hv := v.isLt
  have hhigh : (field v 32 32).setWidth 64 = BitVec.ofNat 64 (v.toNat / 2 ^ 32) := by
    apply BitVec.eq_of_toNat_eq
    simp only [field, BitVec.toNat_setWidth, BitVec.extractLsb'_toNat, BitVec.toNat_ofNat, Nat.shiftRight_eq_div_pow]
    omega
  rw [highHalfOf, if_pos ⟨rfl, h⟩, hhigh]

/-- The word of a returned value is its low half (R82). -/
theorem word_value (x : BitVec 64) : (Result.value x).word = BitVec.ofNat 32 x.toNat := by
  apply BitVec.eq_of_toNat_eq
  simp [Result.word, field]

/-- An access whose second half is left after its instruction leaves it waiting, with the word the instruction returned
(R82; log 16). -/
theorem settle_access_some {x : HighHalf} (h : t.cont = some x) :
    settle .access t = { t with cont := none, tasks := t.tasks ++ [⟨.idle, some { x with low := t.result.word }⟩] } := by
  rw [settle, h]

/-- An access with no second half left has nothing after its instruction (R82; log 16). -/
theorem settle_access_none (h : t.cont = none) : settle .access t = t := by
  rw [settle, h]

/-- The step of an 8-byte access is its low half, with the high half to come (R82, R90; log 2, 16). -/
theorem step_eightByte {rest : List Input} {off : Nat} {isWrite : Bool} {v : BitVec 64} (hl : s.locked = none)
    (hi : s.inbox = .access ⟨off, 8, isWrite, v⟩ :: rest) (h8 : off % 8 = 0) :
    step s = mapNext (settle .access)
      (exec (decode s.cfg (.access ⟨off, 4, isWrite, BitVec.ofNat 64 (v.toNat % 2 ^ 32)⟩))
        { s with
          inbox := rest
          cont := some ⟨⟨off + 4, 4, isWrite, BitVec.ofNat 64 (v.toNat / 2 ^ 32)⟩, 0⟩ }) := by
  rw [step_of_fetch (fetch_access hl hi), exec_access_lowHalf _ _ h8, highHalfOf_eight h8]
  rfl

/-- The step of a waiting second half is its access, and a read then returns both halves (R82; log 3, 16). -/
theorem step_highHalf {rest : List Input} {k : Nat} {h : HighHalf} (hturn : hasTurn s k rest)
    (hk : s.tasks[k]? = some ⟨.idle, some h⟩) :
    step s = mapNext (joinHalves h)
      (exec (decode s.cfg (.access h.access)) { s with inbox := rest, tasks := s.tasks.eraseIdx k }) :=
  step_of_fetch ((fetch_of_hasTurn hturn).trans (fetchTask_idle (s := { s with inbox := rest }) hk))

/-- The two halves of a read as one value (R82). -/
theorem word_append (x : BitVec 64) (low : Word) :
    ((Result.value x).word ++ low : BitVec (32 + 32)) = BitVec.ofNat 64 (x.toNat % 2 ^ 32 * 2 ^ 32 + low.toNat) := by
  have hlow := low.isLt
  apply BitVec.eq_of_toNat_eq
  simp only [word_value, toNat_append_eq, BitVec.toNat_ofNat]
  omega

end

/-- Settles O60: the low half is the 32-bit access in the step that takes the input, and leaves the high half waiting
unless it has started a drain; the high half is an access of its own. -/
theorem eightByteAccessesAreTwoHalves : Obligations.EightByteAccessesAreTwoHalves := by
  intro s rest
  constructor
  · intro off isWrite v hl hi h8 high
    have hstep := step_eightByte hl hi h8
    cases isWrite with
    | false =>
      obtain ⟨dr, x, hx, he⟩ := exec_access_read s.cfg { s with inbox := rest, cont := some ⟨high, 0⟩ }
        (a := ⟨off, 4, false, BitVec.ofNat 64 (v.toNat % 2 ^ 32)⟩) rfl
      refine ⟨_, he, fun _ => ⟨x, rfl, hx, hl, ?_⟩, nofun⟩
      rw [hstep, he, mapNext, settle_access_some rfl, word_value]
    | true =>
      obtain ⟨t, he, hr⟩ := exec_access_write s.cfg { s with inbox := rest, cont := some ⟨high, 0⟩ }
        (a := ⟨off, 4, true, BitVec.ofNat 64 (v.toNat % 2 ^ 32)⟩) rfl
      rw [he, mapNext] at hstep
      refine ⟨t, he, nofun, fun _ => ?_⟩
      rcases exec_handsOver he with ⟨hcont, hlocked, htasks⟩ | ⟨hcont, hdrain⟩
      · refine ⟨fun _ => ⟨hlocked.trans hl, ?_⟩, fun hnone => by cases hnone.symm.trans hcont⟩
        rw [hstep, settle_access_some hcont, hr, htasks]
        rfl
      · refine ⟨fun hsome => absurd hcont hsome, fun _ => ⟨hstep.trans (by rw [settle_access_none hcont]), ?_⟩⟩
        exact hdrain.imp id fun ⟨w, hlocked, htasks⟩ => ⟨w, hlocked.trans hl, htasks⟩
  · intro k h hturn hk
    have hstep := step_highHalf hturn hk
    cases hd : h.access.isWrite with
    | false =>
      obtain ⟨dr, x, -, he⟩ := exec_access_read s.cfg { s with inbox := rest, tasks := s.tasks.eraseIdx k } hd
      refine ⟨_, he, nofun, fun _ => ⟨x, rfl, ?_⟩⟩
      rw [hstep, he, mapNext, joinHalves, hd, ← word_append]
      rfl
    | true =>
      obtain ⟨t, he, -⟩ := exec_access_write s.cfg { s with inbox := rest, tasks := s.tasks.eraseIdx k } hd
      refine ⟨t, he, fun _ => ?_, nofun⟩
      rw [hstep, he, mapNext, joinHalves, hd]
      rfl

end Sys2Proof.Machine
end

section
/-! PROOFS. The Capability bank: seven registers whose value the configuration fixes and whose writes are ignored (R150 to
R156, R252, R253). -/

namespace Sys2Proof.Machine

open Sys2Proof.Claims

/-! ### The words as numbers -/

section
variable {c : Config}

/-- The constraints of R11 that keep each field of a Capability word within its width (R150 to R152). -/
theorem config_ok_fields (h : c.ok = true) :
    c.maxSlots ≤ 255 ∧ c.maxIntrs ≤ 1024 ∧ c.maxPorts ≤ 127 ∧ c.capLength ≤ 255 ∧ c.erstMaxExp ≤ 15 := by
  simp only [Config.ok, Bool.and_eq_true, decide_eq_true_eq] at h
  omega

/-- CAPLENGTH/HCIVERSION (R151). -/
theorem caplengthWord_eq (h : c.ok = true) : caplengthWord c = w32 (c.version.toNat * 2 ^ 16 + c.capLength) := by
  obtain ⟨-, -, -, hcap, -⟩ := config_ok_fields h
  have hversion := c.version.isLt
  apply BitVec.eq_of_toNat_eq
  simp only [caplengthWord, toNat_append_eq, BitVec.toNat_ofNat]
  omega

/-- HCSPARAMS1 (R150). -/
theorem hcsparams1Word_eq (h : c.ok = true) :
    hcsparams1Word c = w32 (c.maxPorts * 2 ^ 24 + c.maxIntrs * 2 ^ 8 + c.maxSlots) := by
  obtain ⟨hslots, hintrs, hports, -, -⟩ := config_ok_fields h
  apply BitVec.eq_of_toNat_eq
  simp only [hcsparams1Word, toNat_append_eq, BitVec.toNat_ofNat]
  omega

/-- HCSPARAMS2 (R152). -/
theorem hcsparams2Word_eq (h : c.ok = true) : hcsparams2Word c = w32 (c.erstMaxExp * 2 ^ 4) := by
  obtain ⟨-, -, -, -, herst⟩ := config_ok_fields h
  apply BitVec.eq_of_toNat_eq
  simp only [hcsparams2Word, toNat_append_eq, BitVec.toNat_ofNat]
  omega

end

/-! ### The registers -/

/-- A register whose writes are ignored keeps the law of its value, with no effect (R82, R253). -/
theorem registerLaw_constant {mk : Access → Instr} {s : State} {value : Word}
    (h : ∀ a, exec (mk a) s = accessRegister a value ignoreWrite s) : RegisterLaw mk s value (fun _ => s) :=
  ⟨fun _ => h _, fun _ => h _, fun _ => h _⟩

/-- Settles O12: each register is a constant of the configuration. Its fields fit their widths, so the word they make is
their sum, and the hardware's words are those sums at the hardware's configuration. -/
theorem capabilityBankIsConstant : Obligations.CapabilityBankIsConstant := by
  intro s hok
  have hcaplength : RegisterLaw .caplengthHciversion s (caplengthWord s.cfg) (fun _ => s) :=
    registerLaw_constant fun _ => rfl
  have hparams1 : RegisterLaw .hcsparams1 s (hcsparams1Word s.cfg) (fun _ => s) := registerLaw_constant fun _ => rfl
  have hparams2 : RegisterLaw .hcsparams2 s (hcsparams2Word s.cfg) (fun _ => s) := registerLaw_constant fun _ => rfl
  have hdboff : RegisterLaw .dboff s (dboffWord s.cfg) (fun _ => s) := registerLaw_constant fun _ => rfl
  have hrtsoff : RegisterLaw .rtsoff s (rtsoffWord s.cfg) (fun _ => s) := registerLaw_constant fun _ => rfl
  rw [caplengthWord_eq hok] at hcaplength
  rw [hcsparams1Word_eq hok] at hparams1
  rw [hcsparams2Word_eq hok] at hparams2
  refine ⟨hcaplength, hparams1, hparams2, registerLaw_constant fun _ => rfl, registerLaw_constant fun _ => rfl, hdboff,
    hrtsoff, fun hhardware => ?_⟩
  rw [hhardware] at hcaplength hparams1 hparams2 hdboff hrtsoff
  exact ⟨hcaplength, hparams1, hparams2, hdboff, hrtsoff⟩

end Sys2Proof.Machine
end

section
/-! PROOFS. The TRB codec: bytes and words, the two round trips and the rejected types (R171 to R173), where the fields
lie and what the mutators write (R174 to R180). -/

namespace Sys2Proof.Machine

/-! ### Fields and bytes -/

/-- A field as a number (R13). -/
theorem field_toNat {n : Nat} (v : BitVec n) (lo len : Nat) : (field v lo len).toNat = v.toNat / 2 ^ lo % 2 ^ len := by
  rw [field, BitVec.extractLsb'_toNat, Nat.shiftRight_eq_div_pow]

/-- A field that reaches the top of the word needs no reduction (R13). -/
theorem field_toNat_top {n : Nat} (v : BitVec n) (lo len : Nat) (h : n = lo + len) :
    (field v lo len).toNat = v.toNat / 2 ^ lo := by
  have hv : v.toNat < 2 ^ lo * 2 ^ len := by rw [← pow_add, ← h]; exact v.isLt
  rw [field_toNat, Nat.mod_eq_of_lt (Nat.div_lt_of_lt_mul hv)]

/-- A field of a field is a field of the whole word (R13, R110). -/
theorem field_field {n : Nat} (v : BitVec n) (lo len lo' len' : Nat) (h : lo' + len' ≤ len) :
    field (field v lo len) lo' len' = field v (lo + lo') len' := by
  apply BitVec.eq_of_getLsbD_eq
  intro i hi
  have hin : lo' + i < len := by omega
  simp [field, hi, hin, Nat.add_assoc]

/-- A field of the low word of two (R13). -/
theorem field_append_low {n m : Nat} (x : BitVec n) (y : BitVec m) (lo len : Nat) (h : lo + len ≤ m) :
    field (x ++ y) lo len = field y lo len :=
  BitVec.extractLsb'_append_eq_of_add_le h

/-- A field of the high word of two (R13). -/
theorem field_append_high {n m : Nat} (x : BitVec n) (y : BitVec m) (lo len : Nat) :
    field (x ++ y) (m + lo) len = field x lo len := by
  rw [field, BitVec.extractLsb'_append_eq_of_le (Nat.le_add_right m lo), Nat.add_sub_cancel_left, field]

/-- The bytes of a word as numbers: byte k is the quotient by 256 ^ k (R80). -/
theorem leBytes_eq {n : Nat} (v : BitVec n) (count : Nat) :
    leBytes v count = (List.range count).map (fun k => BitVec.ofNat 8 (v.toNat / 256 ^ k)) := by
  refine List.map_congr_left fun k _ => BitVec.eq_of_toNat_eq ?_
  rw [field_toNat, BitVec.toNat_ofNat, pow_mul, show 2 ^ 8 = 256 from rfl]

/-- The bytes of two words are those of the low word and then those of the high word (R80). -/
theorem leBytes_append {n m : Nat} (x : BitVec n) (y : BitVec m) (low high : Nat) (h : m = 8 * low) :
    leBytes (x ++ y) (low + high) = leBytes y low ++ leBytes x high := by
  subst h
  simp only [leBytes, List.range_add, List.map_append, List.map_map]
  congr 1
  · refine List.map_congr_left fun k hk => field_append_low x y _ _ ?_
    have := List.mem_range.1 hk
    omega
  · refine List.map_congr_left fun k _ => ?_
    rw [Function.comp_apply, Nat.mul_add, field_append_high]

/-- The bytes of an encoded TRB: parameter, status, control (R110, R172). -/
theorem rawBytes_encodeTrb (t : Trb) :
    rawBytes (encodeTrb t) = leBytes t.parameter 8 ++ leBytes t.status 4 ++ leBytes t.control 4 :=
  calc
    leBytes (t.control ++ t.status ++ t.parameter) (8 + (4 + 4))
      = leBytes t.parameter 8 ++ leBytes (t.control ++ t.status) (4 + 4) := leBytes_append _ _ _ _ rfl
    _ = leBytes t.parameter 8 ++ (leBytes t.status 4 ++ leBytes t.control 4) :=
      congrArg _ (leBytes_append t.control t.status 4 4 rfl)
    _ = leBytes t.parameter 8 ++ leBytes t.status 4 ++ leBytes t.control 4 := (List.append_assoc _ _ _).symm

/-! ### Decoding -/

/-- The recognised types as numbers (R118). -/
theorem recognised_iff (ty : BitVec 6) :
    recognised ty = true ↔ (1 ≤ ty.toNat ∧ ty.toNat ≤ 23) ∨ (32 ≤ ty.toNat ∧ ty.toNat ≤ 39) := by
  simp [recognised]

/-- The type of a TRB as a number (R111, R174). -/
theorem trbType_toNat (t : Trb) : (trbType t).toNat = t.control.toNat / 2 ^ 10 % 64 := field_toNat _ _ _

/-- The type of 16 raw bytes as a number (R110, R111). -/
theorem trbType_rawWords_toNat (b : Raw) : (trbType (rawWords b)).toNat = b.toNat / 2 ^ 106 % 64 := by
  have hfield : trbType (rawWords b) = field b 106 6 := field_field b 96 32 10 6 (by omega)
  rw [hfield]
  exact field_toNat b 106 6

/-- Bytes of a recognised type decode to their words (R171). -/
theorem decodeTrb_of_recognised (b : Raw) (h : recognised (trbType (rawWords b)) = true) :
    decodeTrb b = .ok (rawWords b) :=
  if_pos h

/-- Bytes of an unrecognised type are rejected (R171). -/
theorem decodeTrb_of_not_recognised (b : Raw) (h : ¬ recognised (trbType (rawWords b)) = true) :
    decodeTrb b = .error .malformedTrb :=
  if_neg h

/-- A representable TRB, encoded and decoded again, is itself (R172). -/
theorem decodeTrb_encodeTrb (t : Trb) (h : recognised (trbType t) = true) : decodeTrb (encodeTrb t) = .ok t := by
  rw [decodeTrb_of_recognised _ (by rwa [rawWords_encodeTrb]), rawWords_encodeTrb]

/-- Settles O2: the bytes of an encoded TRB are those of its three words, the words and the bytes are inverse, and the
decoder looks at the type alone. -/
theorem codecBytesAndRoundTrip : Obligations.CodecBytesAndRoundTrip := by
  refine ⟨fun t => ?_, fun t htype => ?_, fun b => ?_⟩
  · rw [rawBytes_encodeTrb, leBytes_eq, leBytes_eq, leBytes_eq]
  · refine decodeTrb_encodeTrb t ((recognised_iff _).2 ?_)
    rwa [trbType_toNat]
  · rw [← trbType_rawWords_toNat, ← recognised_iff]
    exact ⟨fun h => ⟨rawWords b, decodeTrb_of_recognised b h, encodeTrb_rawWords b⟩,
      decodeTrb_of_not_recognised b⟩

/-! ### The mutators -/

/-- A bit outside the written field is unchanged (R86). -/
theorem getLsbD_setField_outside {n len : Nat} (v : BitVec n) (lo : Nat) (x : BitVec len) (i : Nat) (hi : i < n)
    (h : i < lo ∨ lo + len ≤ i) : (setField v lo x).getLsbD i = v.getLsbD i := by
  rw [getLsbD_setField v lo x i hi, if_neg (by omega)]

/-- A bit other than the written flag is unchanged (R175, R177). -/
theorem getLsbD_setField_flag (v : Word) (lo : Nat) (c : Bool) (i : Nat) (hi : i < 32) (h : i ≠ lo) :
    (setField v lo (BitVec.ofBool c)).getLsbD i = v.getLsbD i :=
  getLsbD_setField_outside v lo _ i hi (by omega)

/-- Where each field of the codec lies (R174 to R180). -/
theorem codecFields_positions (t : Trb) :
    (trbType t).toNat = t.control.toNat / 2 ^ 10 % 64 ∧ cycle t = t.control.getLsbD 0
      ∧ (completionCode t).toNat = t.status.toNat / 2 ^ 24 ∧ chain t = t.control.getLsbD 4
      ∧ ioc t = t.control.getLsbD 5 ∧ idt t = t.control.getLsbD 6 ∧ last t = !t.control.getLsbD 4
      ∧ (transferLength t).toNat = t.status.toNat % 2 ^ 17 ∧ (slotId t).toNat = t.control.toNat / 2 ^ 24
      ∧ (endpointId t).toNat = t.control.toNat / 2 ^ 16 % 2 ^ 5
      ∧ (eventLength t).toNat = t.status.toNat % 2 ^ 24 := by
  have hcode : (completionCode t).toNat = t.status.toNat / 2 ^ 24 := field_toNat_top _ _ _ rfl
  have hlength : (transferLength t).toNat = t.status.toNat % 2 ^ 17 := by
    rw [transferLength, field_toNat, pow_zero, Nat.div_one]
  have hevent : (eventLength t).toNat = t.status.toNat % 2 ^ 24 := by
    rw [eventLength, field_toNat, pow_zero, Nat.div_one]
  exact ⟨trbType_toNat t, rfl, hcode, rfl, rfl, rfl, rfl, hlength, slotId_toNat t, endpointId_toNat t, hevent⟩

/-- `set_type` with a recognised value writes the type and no other bit (R174). -/
theorem setType_of_recognised (t : Trb) (v : BitVec 6) (h : recognised v = true) :
    ∃ w, setType t v = some w ∧ trbType w = v ∧ w.parameter = t.parameter ∧ w.status = t.status
      ∧ ∀ k < 32, (k < 10 ∨ 16 ≤ k) → w.control.getLsbD k = t.control.getLsbD k :=
  ⟨{ t with control := setField t.control 10 v }, if_pos h, field_setField _ _ _ (by omega), rfl, rfl,
    getLsbD_setField_outside t.control 10 v⟩

/-- `set_type` refuses an unrecognised value (R174). -/
theorem setType_of_not_recognised (t : Trb) (v : BitVec 6) (h : recognised v = false) : setType t v = none := by
  simp [setType, h]

/-- A length keeps its low 17 bits (R179). -/
theorem transferLength_setTransferLength (t : Trb) (n : Word) :
    (transferLength (setTransferLength t n)).toNat = n.toNat % 2 ^ 17 := by
  rw [transferLength, setTransferLength, field_setField _ _ _ (by omega), field_toNat, pow_zero, Nat.div_one]

/-- Settles O3: each mutator is one field write of one word, so the field reads back and every bit outside it stays. -/
theorem codecFieldWrites : Obligations.CodecFieldWrites := by
  intro t
  refine ⟨codecFields_positions t, setType_of_recognised t, setType_of_not_recognised t, fun c => ?cycle,
    fun cc => ?code, fun v => ?flags, fun n => ?length⟩
  case cycle =>
    exact ⟨bit_setField_same _ _ _ (by omega), rfl, rfl, getLsbD_setField_flag t.control 0 c⟩
  case code =>
    exact ⟨field_setField _ _ _ (by omega), rfl, rfl,
      fun k hk => getLsbD_setField_outside t.status 24 cc k (by omega) (.inl hk)⟩
  case flags =>
    have hreads (i : Nat) (hi : i < 32) : bit (setField t.control i (BitVec.ofBool v)) i = v :=
      bit_setField_same _ _ _ hi
    have hkeeps (i : Nat) := getLsbD_setField_flag t.control i v
    exact ⟨hreads 4 (by omega), hreads 5 (by omega), hreads 6 (by omega), rfl, rfl, rfl, rfl, rfl, rfl,
      fun k hk => ⟨hkeeps 4 k hk, hkeeps 5 k hk, hkeeps 6 k hk⟩, rfl⟩
  case length =>
    exact ⟨transferLength_setTransferLength t n, rfl, rfl,
      fun k hk hout => getLsbD_setField_outside t.status 0 (field n 0 17) k hk (.inr (by omega))⟩

end Sys2Proof.Machine
end

section
/-! PROOFS. The command and transfer rings (R200 to R205): a ring that `init`, `queue` and `next` make is a bounded queue of
the TRBs it was given, by counting positions from the start instead of wrapping at the end. -/

namespace Sys2Proof.Machine

open Sys2Proof.Claims

/-! ### The cases of `queue` -/

/-- An uninitialised ring refuses a TRB (R203). -/
theorem queue_uninit {r : Ring} (b : Raw) (h : r.init = false) : r.queue b = (r, .rejected) := by
  simp [Ring.queue, h]

/-- A full ring refuses a TRB (R203). -/
theorem queue_full {r : Ring} (b : Raw) (hinit : r.init = true) (h : r.full = true) : r.queue b = (r, .full) := by
  simp [Ring.queue, hinit, h]

/-- Any other ring stores the TRB at the producer's slot (R203). -/
theorem queue_stored {r : Ring} (b : Raw) (hinit : r.init = true) (h : r.full = false) :
    r.queue b
      = ({ r with slots := r.slots.set r.enq (rawSetCycle b r.pcs) }.produced, .queued (r.addr r.enq)) := by
  simp [Ring.queue, hinit, h]

/-! ### Positions counted without wrapping -/

/-- The cycle bit of the pass over the ring that position i lies in: 1 on the odd passes. A new ring begins on pass 1, so
that its zeroed slots look written on pass 0. -/
def lap (size i : Nat) : Bool := decide (i / size % 2 = 1)

/-- The position after the last slot of a pass is the first of the next, whose cycle bit is the other one (R203, R204). -/
theorem position_wraps {size i : Nat} (h : i % size + 1 = size) :
    (i + 1) % size = 0 ∧ lap size (i + 1) = !lap size i := by
  have hnext : i + 1 = size * (i / size + 1) := by
    have := Nat.div_add_mod i size
    rw [Nat.mul_add]
    omega
  refine ⟨by rw [hnext, Nat.mul_mod_right], ?_⟩
  rw [lap, hnext, Nat.mul_div_cancel_left _ (by omega), lap, ← decide_not]
  exact decide_eq_decide.2 (by omega)

/-- Any other position is followed by one on the same pass (R203, R204). -/
theorem position_moves {size i : Nat} (hpos : 0 < size) (h : i % size + 1 ≠ size) :
    (i + 1) % size = i % size + 1 ∧ lap size (i + 1) = lap size i := by
  have hlt := Nat.mod_lt i hpos
  have hnext : i + 1 = size * (i / size) + (i % size + 1) := by
    have := Nat.div_add_mod i size
    omega
  have hin : i % size + 1 < size := by omega
  constructor
  · conv_lhs => rw [hnext, Nat.mul_add_mod, Nat.mod_eq_of_lt hin]
  · rw [lap, hnext, Nat.mul_add_div hpos, Nat.div_eq_of_lt hin, Nat.add_zero, lap]

/-- One pass further the cycle bit is the other one (C7). -/
theorem lap_add_size {size : Nat} (hpos : 0 < size) (i : Nat) : lap size (i + size) = !lap size i := by
  rw [lap, Nat.add_div_right i hpos, lap, ← decide_not]
  exact decide_eq_decide.2 (by omega)

/-- Two positions less than one pass apart are different slots. -/
theorem position_slot_ne {size i j : Nat} (hlt : i < j) (hnear : j < i + size) : j % size ≠ i % size := by
  intro heq
  have hzero := Nat.sub_mod_eq_zero_of_mod_eq heq
  rw [Nat.mod_eq_of_lt (by omega)] at hzero
  omega

/-! ### A ring with its positions counted -/

/-- The producer at position p goes to position p + 1 (R203). -/
theorem produced_at {r : Ring} {p : Nat} (hpos : 0 < r.size) (henq : r.enq = p % r.size) (hpcs : r.pcs = lap r.size p) :
    r.produced = { r with enq := (p + 1) % r.size, pcs := lap r.size (p + 1) } := by
  unfold Ring.produced
  rw [henq, hpcs]
  split
  · next h => rw [(position_wraps h).1, (position_wraps h).2]
  · next h => rw [(position_moves hpos h).1, (position_moves hpos h).2, ← hpcs]

/-- The consumer at position c goes to position c + 1 (R204). -/
theorem advance_at {r : Ring} {c : Nat} (hpos : 0 < r.size) (hdeq : r.deq = c % r.size) (hccs : r.ccs = lap r.size c) :
    r.advance = { r with deq := (c + 1) % r.size, ccs := lap r.size (c + 1) } := by
  unfold Ring.advance
  rw [hdeq, hccs]
  split
  · next h => rw [(position_wraps h).1, (position_wraps h).2]
  · next h => rw [(position_moves hpos h).1, (position_moves hpos h).2, ← hccs]

/-- The consumer has reached position c and the producer is n TRBs ahead: each slot of the last pass before the producer
has the cycle bit it was written with (R200). -/
structure Ring.Counts (r : Ring) (c n : Nat) : Prop where
  init : r.init = true
  pos : 0 < r.size
  slots : r.slots.length = r.size
  started : r.size ≤ c
  bound : n ≤ r.size
  deq : r.deq = c % r.size
  ccs : r.ccs = lap r.size c
  enq : r.enq = (c + n) % r.size
  pcs : r.pcs = lap r.size (c + n)
  cycles : ∀ i, i < c + n → c + n ≤ i + r.size → rawCycle (r.at (i % r.size)) = lap r.size i

/-- The n TRBs from position c on, each with its address. -/
def Ring.entries (r : Ring) (c n : Nat) : List (Raw × Addr) :=
  (List.range' c n).map fun i => (r.at (i % r.size), r.addr (i % r.size))

/-- Moving the consumer leaves what the slots hold (R204). -/
theorem advance_entries (r : Ring) (c n : Nat) : r.advance.entries c n = r.entries c n := by
  unfold Ring.advance
  split <;> rfl

section
variable {r : Ring} {c n : Nat}

/-- A new ring is empty at the start of pass 1 (R201). -/
theorem initialise_counts {base : Addr} {size : Nat} (h : Ring.initialise base size = some r) : r.Counts size 0 := by
  obtain ⟨hsize, -, -, rfl⟩ := initialise_spec h
  have hpos : 0 < size := by omega
  have hstart : lap size size = true := by simp [lap, Nat.div_self hpos]
  refine ⟨rfl, hpos, by simp, le_rfl, by simp, by simp, hstart.symm, by simp, hstart.symm, fun i hi _ => ?_⟩
  have hzeroed : (List.replicate size (0 : Raw)).getD (i % size) 0 = 0 := List.getD_replicate _ (Nat.mod_lt i hpos)
  have hcycle : rawCycle 0 = false := by decide
  have hlap : lap size i = false := by rw [lap, Nat.div_eq_of_lt (show i < size from hi)]; rfl
  exact (congrArg rawCycle hzeroed).trans (hcycle.trans hlap.symm)

/-- The consumer's slot is valid where the producer is ahead: else the slot was last written a pass ago (R200). -/
theorem Ring.Counts.valid (h : r.Counts c n) : r.valid r.deq = decide (0 < n) := by
  have hstarted := h.started
  have hbound := h.bound
  rw [Ring.valid, h.init, Bool.true_and, h.deq, h.ccs]
  rcases Nat.eq_zero_or_pos n with rfl | hn
  · obtain ⟨i, rfl⟩ := Nat.exists_eq_add_of_le' hstarted
    have hpos := h.pos
    have hcycle := h.cycles i (by omega) (by omega)
    rw [Nat.add_mod_right, hcycle, lap_add_size h.pos]
    cases lap r.size i <;> rfl
  · rw [h.cycles c (by omega) (by omega)]
    simp [hn]

/-- A ring is empty where the producer is not ahead (R200). -/
theorem Ring.Counts.empty (h : r.Counts c n) : r.empty = decide (n = 0) := by
  rw [Ring.empty, h.valid, ← decide_not]
  exact decide_eq_decide.2 (by omega)

/-- A ring is full where the producer is a whole pass ahead (R200). -/
theorem Ring.Counts.full (h : r.Counts c n) : r.full = decide (n = r.size) := by
  have hbound := h.bound
  have hpos := h.pos
  rw [Ring.full, h.init, h.valid, h.enq, h.deq, Bool.true_and]
  rcases hbound.eq_or_lt with rfl | hlt
  · simp [hpos]
  · rcases Nat.eq_zero_or_pos n with rfl | hn
    · simp [hpos.ne]
    · simp [position_slot_ne (size := r.size) (i := c) (j := c + n) (by omega) (by omega), hlt.ne]

/-- Queuing on a ring that is not full, with the positions counted (R203). -/
theorem Ring.Counts.queue_eq (h : r.Counts c n) (b : Raw) (hlt : n < r.size) :
    r.queue b
      = ({ r with
            slots := r.slots.set r.enq (rawSetCycle b r.pcs)
            enq := (c + n + 1) % r.size
            pcs := lap r.size (c + n + 1) }, .queued (r.addr r.enq)) := by
  rw [queue_stored b h.init (by simp [h.full, hlt.ne]),
    produced_at (r := { r with slots := r.slots.set r.enq (rawSetCycle b r.pcs) }) h.pos h.enq h.pcs]

/-- The slot a TRB is queued in holds it with the producer's cycle bit (R203). -/
theorem Ring.Counts.queue_at_new (h : r.Counts c n) (b : Raw) (hlt : n < r.size) :
    (r.queue b).1.at ((c + n) % r.size) = rawSetCycle b r.pcs := by
  rw [h.queue_eq b hlt, Ring.at, h.enq]
  exact getD_set_self _ _ _ (by rw [h.slots]; exact Nat.mod_lt _ h.pos)

/-- The slots of the pass before it are as before (R203). -/
theorem Ring.Counts.queue_at_old (h : r.Counts c n) (b : Raw) (hlt : n < r.size) {i : Nat} (hi : i < c + n)
    (hnear : c + n < i + r.size) : (r.queue b).1.at (i % r.size) = r.at (i % r.size) := by
  rw [h.queue_eq b hlt, Ring.at, h.enq]
  exact getD_set_ne _ _ _ (position_slot_ne hi hnear)

/-- Queuing keeps the size (R203). -/
theorem queue_size (r : Ring) (b : Raw) : (r.queue b).1.size = r.size := by
  rcases queue_spec r b with ⟨-, e⟩ | ⟨-, -, e⟩ | ⟨-, -, e⟩ <;> rw [e]
  unfold Ring.produced
  split <;> rfl

/-- Queuing on a ring that is not full moves the producer one ahead (R203). -/
theorem Ring.Counts.queue (h : r.Counts c n) (b : Raw) (hlt : n < r.size) : (r.queue b).1.Counts c (n + 1) := by
  have hnew := h.queue_at_new b hlt
  have hold (i : Nat) := h.queue_at_old b hlt (i := i)
  rw [h.queue_eq b hlt] at hnew hold ⊢
  refine ⟨h.init, h.pos, by simpa using h.slots, h.started, hlt, h.deq, h.ccs, rfl, rfl, fun i hi hnear => ?_⟩
  rcases (Nat.lt_succ_iff.1 hi).eq_or_lt with rfl | hi
  · exact (congrArg rawCycle hnew).trans ((rawCycle_rawSetCycle _ _).trans h.pcs)
  · exact (congrArg rawCycle (hold i hi hnear)).trans (h.cycles i hi (Nat.le_of_lt hnear))

/-- The queued TRB comes last (R205). -/
theorem Ring.Counts.queue_entries (h : r.Counts c n) (b : Raw) (hlt : n < r.size) :
    (r.queue b).1.entries c (n + 1) = r.entries c n ++ [(rawSetCycle b r.pcs, r.addr r.enq)] := by
  have haddr (i : Nat) : (r.queue b).1.addr i = r.addr i := by rw [h.queue_eq b hlt]; rfl
  simp only [Ring.entries, queue_size, haddr, List.range'_1_concat, List.map_append, List.map_cons, List.map_nil,
    h.queue_at_new b hlt]
  rw [← h.enq]
  congr 1
  refine List.map_congr_left fun i hi => ?_
  obtain ⟨hfrom, hto⟩ := List.mem_range'_1.1 hi
  rw [h.queue_at_old b hlt hto (by omega)]

/-- The consumer takes the first of the TRBs (R204). -/
theorem Ring.Counts.next (h : r.Counts c (n + 1)) :
    ∃ b a, r.next = some (b, a, r.advance) ∧ r.advance.Counts (c + 1) n
      ∧ r.entries c (n + 1) = (b, a) :: r.advance.entries (c + 1) n := by
  refine ⟨r.at r.deq, r.addr r.deq, by simp [Ring.next, h.empty], ?_, ?_⟩
  · have hstarted := h.started
    have hbound := h.bound
    rw [advance_at h.pos h.deq h.ccs]
    have hp : c + (n + 1) = c + 1 + n := by omega
    exact ⟨h.init, h.pos, h.slots, Nat.le_succ_of_le hstarted, Nat.le_of_succ_le hbound, rfl, rfl, hp ▸ h.enq,
      hp ▸ h.pcs, hp ▸ h.cycles⟩
  · rw [advance_entries, Ring.entries, List.range'_succ, List.map_cons, ← h.deq]
    rfl

/-- An empty ring has no next TRB (R204). -/
theorem Ring.Counts.next_none (h : r.Counts c 0) : r.next = none := by simp [Ring.next, h.empty]

/-- Every ring that `init`, `queue` and `next` make has its positions counted (R200). -/
theorem Ring.Made.counts (h : r.Made) : ∃ c n, r.Counts c n := by
  induction h with
  | init h => exact ⟨_, _, initialise_counts h⟩
  | @queue r b _ ih =>
    obtain ⟨c, n, h⟩ := ih
    rcases h.bound.eq_or_lt with hfull | hlt
    · rw [queue_full b h.init (by simp [h.full, hfull])]
      exact ⟨c, n, h⟩
    · exact ⟨c, n + 1, h.queue b hlt⟩
  | @next r r' b a _ e ih =>
    obtain ⟨c, n, h⟩ := ih
    cases n with
    | zero => cases h.next_none.symm.trans e
    | succ n =>
      obtain ⟨b, a, hnext, hcounts, -⟩ := h.next
      cases hnext.symm.trans e
      exact ⟨c + 1, n, hcounts⟩

/-! ### Sequences of operations -/

/-- `queue` operations that fit all succeed and put their TRBs at the end, in order (R203, R205). -/
theorem Ring.Counts.queueAll (h : r.Counts c n) (bs : List Raw) (hfit : n + bs.length ≤ r.size) :
    ∃ as : List Addr, as.length = bs.length ∧ (r.queueAll bs).2 = as.map Result.queued
      ∧ (r.queueAll bs).1.Counts c (n + bs.length) ∧ (r.queueAll bs).1.size = r.size
      ∧ (r.queueAll bs).1.entries c (n + bs.length) = r.entries c n ++ (r.stamped bs).zip as := by
  induction bs generalizing r n with
  | nil => exact ⟨[], rfl, rfl, h, rfl, (List.append_nil _).symm⟩
  | cons b bs ih =>
    rw [List.length_cons, ← Nat.add_assoc, Nat.add_right_comm] at hfit ⊢
    have hlt : n < r.size := by omega
    obtain ⟨as, hlength, hresults, hcounts, hsize, hentries⟩ := ih (h.queue b hlt) (by rwa [queue_size])
    refine ⟨r.addr r.enq :: as, congrArg _ hlength, ?_, hcounts, hsize.trans (queue_size r b), ?_⟩
    · rw [Ring.queueAll, hresults, h.queue_eq b hlt, List.map_cons]
    · rw [Ring.queueAll, hentries, h.queue_entries b hlt, List.append_assoc]
      rfl

/-- `next` operations return the TRBs, and leave the ring empty (R204, R205). -/
theorem Ring.Counts.nextAll (h : r.Counts c n) :
    (r.nextAll n).2 = (r.entries c n).map some ∧ (r.nextAll n).1.next = none := by
  induction n generalizing r c with
  | zero => exact ⟨rfl, h.next_none⟩
  | succ n ih =>
    obtain ⟨b, a, hnext, hcounts, hentries⟩ := h.next
    obtain ⟨hresults, hend⟩ := ih hcounts
    simp only [Ring.nextAll, hnext, hentries, hresults, List.map_cons]
    exact ⟨trivial, hend⟩

end

/-- Settles O7: a ring that `init`, `queue` and `next` make holds the TRBs between its two counted positions, and each
`queue` adds one at their end as each `next` takes one from their front. -/
theorem ringIsFirstInFirstOut : Obligations.RingIsFirstInFirstOut := by
  intro r bs hmade _ hempty hfit
  obtain ⟨c, n, h⟩ := hmade.counts
  obtain rfl : n = 0 := by simpa [h.empty] using hempty
  obtain ⟨as, hlength, hresults, hcounts, hsize, hentries⟩ := h.queueAll bs (by omega)
  rw [Nat.zero_add] at hcounts hentries
  obtain ⟨htaken, hend⟩ := hcounts.nextAll
  refine ⟨⟨as, hlength, hresults, by rw [htaken, hentries]; rfl, hend⟩, fun hall => ?_⟩
  have hfull : (r.queueAll bs).1.full = true := by simp [hcounts.full, hsize, hall]
  exact ⟨hfull, fun b => queue_full b hcounts.init hfull⟩

end Sys2Proof.Machine
end

section
/-! PROOFS. The event rings: what posting and consuming leave (R221, R224), and a single-segment ring filled once (R223). -/

namespace Sys2Proof.Machine

open Sys2Proof.Claims

/-! ### The cycle bit as a number -/

/-- A control word with its cycle bit written, as a number (R175). -/
theorem controlWithCycle_eq (w : Word) (c : Bool) : controlWithCycle w c = w32 (w.toNat / 2 * 2 + digit c 0) := by
  apply BitVec.eq_of_getLsbD_eq
  intro i hi
  have hdigit : digit c 0 = c.toNat := by cases c <;> rfl
  have hbit := c.toNat_lt
  simp only [controlWithCycle, getLsbD_setField _ _ _ _ hi, BitVec.getLsbD_ofNat, hi, decide_true, Bool.true_and,
    hdigit]
  cases i with
  | zero =>
    rw [Nat.testBit_zero, Nat.mul_add_mod_self_right, Nat.mod_eq_of_lt hbit]
    cases c <;> rfl
  | succ i =>
    have hhalf : (w.toNat / 2 * 2 + c.toNat) / 2 = w.toNat / 2 := by omega
    rw [Nat.testBit_succ, hhalf, ← Nat.testBit_succ, if_neg (by omega)]
    rfl

/-- A stamped TRB as the statements write it (R203, R221). -/
theorem setCycle_eq (t : Trb) (c : Bool) :
    setCycle t c = { t with control := w32 (t.control.toNat / 2 * 2 + digit c 0) } := by
  rw [setCycle, controlWithCycle_eq]

/-- The cycle bit of 16 raw bytes is bit 96 of them (R44, R110). -/
theorem rawCycle_eq (b : Raw) : rawCycle b = b.getLsbD 96 := by simp [rawCycle, bit, rawControl, field]

/-! ### Posting -/

/-- A ring without segments drops the event (R221). -/
theorem post_dropped {e : EventRing} (t : Trb) (h : e.segs = []) : e.post t = none := if_pos h

/-- Any other ring takes it (R221). -/
theorem post_taken {e : EventRing} (t : Trb) (h : e.segs ≠ []) :
    e.post t = some (e.put e.eseg e.eidx (encodeTrb (setCycle t e.pcs))).produced := if_neg h

/-- A posting at a segment's end takes the producer to the next segment and flips its cycle (R221, C7). -/
theorem post_end {e : EventRing} (t : Trb) (hsegs : e.segs ≠ []) (h : e.eidx + 1 = (e.seg e.eseg).size) :
    e.post t = some { e.put e.eseg e.eidx (encodeTrb (setCycle t e.pcs)) with
      eidx := 0, eseg := (e.eseg + 1) % e.segs.length, pcs := !e.pcs } := by
  rw [post_taken t hsegs, EventRing.produced, (put_seg e e.eseg e.eidx _ _).1]
  simp only [EventRing.put, List.length_modify]
  exact congrArg some (if_pos h)

/-- A posting inside a segment takes the producer to the next slot (R221). -/
theorem post_inside {e : EventRing} (t : Trb) (hsegs : e.segs ≠ []) (h : e.eidx + 1 ≠ (e.seg e.eseg).size) :
    e.post t = some { e.put e.eseg e.eidx (encodeTrb (setCycle t e.pcs)) with eidx := e.eidx + 1 } := by
  rw [post_taken t hsegs, EventRing.produced, (put_seg e e.eseg e.eidx _ _).1]
  exact congrArg some (if_neg h)

/-- An event for an interrupter that does not exist, or whose ring has no segment, is dropped (R221). -/
theorem postEvent_dropped {s : State} {n : Nat} (t : Trb) (h : s.cfg.maxIntrs ≤ n ∨ (s.evRing n).segs = []) :
    s.postEvent n t = (s, false) := by
  unfold State.postEvent
  split
  · next hn =>
    have hnone : (s.evRings.getD n EventRing.fresh).post t = none := post_dropped t (h.resolve_left (by omega))
    rw [hnone]
  · rfl

/-- Any other event is posted on its ring (R221). -/
theorem postEvent_taken {s : State} {n : Nat} (t : Trb) (hn : n < s.cfg.maxIntrs) {r : EventRing}
    (h : (s.evRing n).post t = some r) : s.postEvent n t = ({ s with evRings := s.evRings.set n r }, true) := by
  unfold State.postEvent
  rw [if_pos hn, show (s.evRings.getD n EventRing.fresh).post t = some r from h]

/-- Settles O9: by whether the event is dropped, then by whether the producer is at a segment's end. -/
theorem postEventRule : Obligations.PostEventRule := by
  intro s n t
  refine ⟨postEvent_dropped t, fun hn hsegs => ?_⟩
  rw [← setCycle_eq]
  by_cases hend : (s.evRing n).eidx + 1 = ((s.evRing n).seg (s.evRing n).eseg).size
  · exact ⟨_, postEvent_taken t hn (post_end t hsegs hend), rfl, fun _ => ⟨rfl, rfl, rfl⟩, fun h => absurd hend h, rfl,
      rfl, rfl, rfl, rfl⟩
  · exact ⟨_, postEvent_taken t hn (post_inside t hsegs hend), rfl, fun h => absurd h hend, fun _ => ⟨rfl, rfl, rfl⟩,
      rfl, rfl, rfl, rfl, rfl⟩

/-! ### One segment, filled once -/

/-- A single-segment event ring of N slots whose first pass has the given events in it. -/
def EventRing.filled (base : Addr) (N : Nat) (ts : List Trb) : EventRing where
  segs := [⟨base, N, ts.map (fun t => encodeTrb (setCycle t true)) ++ List.replicate (N - ts.length) 0⟩]
  eseg := 0
  eidx := ts.length % N
  pcs := decide (ts.length < N)
  dseg := 0
  didx := 0
  gseg := 0
  gidx := 0
  gccs := true

/-- `set_segments` makes an event ring with nothing in it (R220). -/
theorem setSegments_filled {base : Addr} {N : Nat} {e : EventRing} (h : EventRing.setSegments [(base, N)] = some e) :
    0 < N ∧ e = .filled base N [] := by
  obtain ⟨-, hseg, rfl⟩ := setSegments_spec h
  have hpos : 0 < N := Nat.pos_of_ne_zero (hseg _ (List.mem_singleton_self _)).1
  exact ⟨hpos, by simp [EventRing.filled, hpos]⟩

/-- Writing the first of the slots from k on. -/
theorem replicate_set_first {α : Type} {k N : Nat} (h : k < N) (x z : α) :
    (List.replicate (N - k) z).set 0 x = x :: List.replicate (N - (k + 1)) z := by
  rw [show N - k = N - (k + 1) + 1 by omega, List.replicate_succ, List.set_cons_zero]

/-- A posting on the first pass adds its event; the last one flips the cycle (R221, R223). -/
theorem filled_post {base : Addr} {N : Nat} {ts : List Trb} (t : Trb) (h : ts.length < N) :
    (EventRing.filled base N ts).post t = some (.filled base N (ts ++ [t])) := by
  have hsegs : (EventRing.filled base N ts).segs ≠ [] := List.cons_ne_nil _ _
  have hidx : (EventRing.filled base N ts).eidx = ts.length := Nat.mod_eq_of_lt h
  by_cases hend : ts.length + 1 = N
  · rw [post_end t hsegs (by rw [hidx]; exact hend)]
    simp [EventRing.filled, EventRing.put, Nat.mod_eq_of_lt h, h, hend, replicate_set_first h]
  · have hlt : ts.length + 1 < N := by omega
    rw [post_inside t hsegs (by rw [hidx]; exact hend)]
    simp [EventRing.filled, EventRing.put, Nat.mod_eq_of_lt h, Nat.mod_eq_of_lt hlt, h, hlt, replicate_set_first h]

/-- Postings that fit into the first pass all succeed (R221, R223). -/
theorem filled_postAll {base : Addr} {N : Nat} {ts us : List Trb} (h : ts.length + us.length ≤ N) :
    (EventRing.filled base N ts).postAll us = some (.filled base N (ts ++ us)) := by
  induction us generalizing ts with
  | nil => rw [List.append_nil]; rfl
  | cons u us ih =>
    rw [List.length_cons] at h
    rw [EventRing.postAll, filled_post u (by omega)]
    simpa using ih (ts := ts ++ [u]) (by simp; omega)

/-- Moving the producer leaves what the slots hold (R221). -/
theorem eventProduced_slot (e : EventRing) (s i : Nat) : e.produced.at s i = e.at s i := by
  unfold EventRing.produced
  split <;> rfl

/-- Settles O8: the N postings fill the first pass, and the producer is then back at slot 0 with the other cycle. -/
theorem eventRingTogglesItsCycle : Obligations.EventRingTogglesItsCycle := by
  intro base N e0 ts t hmade hlength
  obtain ⟨hpos, rfl⟩ := setSegments_filled hmade
  subst hlength
  refine ⟨.filled base ts.length ts, _, filled_postAll (ts := []) (by simp), by simp [EventRing.filled], rfl,
    Nat.mod_self _, fun k hk => ?_, post_taken t (by simp [EventRing.filled]), ?_⟩
  · simp [EventRing.filled, EventRing.at, EventRing.seg, hk]
  · rw [eventProduced_slot]
    simp [EventRing.put, EventRing.at, EventRing.seg, EventRing.filled, hpos]

/-! ### Consuming -/

/-- A ring that shows the guest no new event is left alone (R224). -/
theorem consume_none {e : EventRing} (h : e.segs = [] ∨ (e.at e.gseg e.gidx).getLsbD 96 ≠ e.gccs) :
    e.consume = (e, .noEvent) := by
  unfold EventRing.consume
  split
  · rfl
  · next hsegs => rw [if_pos (by simpa [rawCycle_eq] using h.resolve_left hsegs)]

/-- A new event is read and the guest's cursor moved on (R224). -/
theorem consume_event {e : EventRing} (hsegs : e.segs ≠ []) (h : (e.at e.gseg e.gidx).getLsbD 96 = e.gccs) :
    e.consume = (e.consumed, .event (e.at e.gseg e.gidx)) := by
  rw [EventRing.consume, if_neg hsegs, rawCycle_eq, h, bne_self_eq_false]
  rfl

/-- Putting back the event ring an interrupter has changes nothing. -/
theorem setEvRing_evRing (s : State) (n : Nat) : s.setEvRing n (s.evRing n) = s := by
  have hset : s.evRings.set n (s.evRing n) = s.evRings := by
    rcases Nat.lt_or_ge n s.evRings.length with hlt | hge
    · simp [State.evRing, hlt]
    · exact List.set_eq_of_length_le hge
  rw [State.setEvRing, hset]

/-- Settles O39: by the interrupter, then by whether its ring shows a new event. -/
theorem guestConsumesEvents : Obligations.GuestConsumesEvents := by
  intro s n e b
  refine ⟨fun hn => if_neg (by omega), fun hn => ?_⟩
  have hexec : exec (.evt n) s = .next { s.setEvRing n e.consume.1 with result := e.consume.2 } := if_pos hn
  refine ⟨fun h => ?_, fun hsegs h => ?_⟩
  · rw [hexec, consume_none h, setEvRing_evRing]
  · rw [hexec, consume_event hsegs h]
    rfl

end Sys2Proof.Machine
end

section
/-! PROOFS. The host's operations on rings: CMD, XFER and XINIT (R201, R203, R230, R232). -/

namespace Sys2Proof.Machine

open Sys2Proof.Claims

/-! ### The ring after `queue` -/

/-- A full ring as the statements write it (R200). -/
theorem full_iff {r : Ring} (hinit : r.init = true) :
    r.full = true ↔ r.enq = r.deq ∧ (r.slots.getD r.deq 0).getLsbD 96 = r.ccs := by
  simp [Ring.full, Ring.valid, Ring.at, hinit, rawCycle_eq]

/-- The producer's cursor and cycle state after one more TRB (R203). -/
theorem produced_eq (r : Ring) :
    r.produced = { r with
      enq := if r.enq + 1 = r.size then 0 else r.enq + 1
      pcs := if r.enq + 1 = r.size then !r.pcs else r.pcs } := by
  unfold Ring.produced
  split <;> rfl

/-- `queue` on a ring that is not full, as the statements write it (R203). -/
theorem queue_stored_eq {r : Ring} (b : Raw) (hinit : r.init = true)
    (h : ¬ (r.enq = r.deq ∧ (r.slots.getD r.deq 0).getLsbD 96 = r.ccs)) :
    r.queue b
      = ({ r with
            slots := r.slots.set r.enq (encodeTrb { rawWords b with
              control := w32 ((rawWords b).control.toNat / 2 * 2 + digit r.pcs 0) })
            enq := if r.enq + 1 = r.size then 0 else r.enq + 1
            pcs := if r.enq + 1 = r.size then !r.pcs else r.pcs },
          .queued (r.base + BitVec.ofNat 64 (16 * r.enq))) := by
  rw [← full_iff hinit, Bool.not_eq_true] at h
  rw [queue_stored b hinit h, produced_eq, rawSetCycle, setCycle_eq]
  rfl

/-! ### The operations -/

/-- CMD, with what `queue` answers (R203). -/
theorem exec_cmd {s : State} {b : Raw} {r : Ring} {v : Result} (h : s.cmdRing.queue b = (r, v)) :
    exec (.cmd b) s = .next { s with cmdRing := r, result := v } := by
  simp only [exec, execCmd, h]

/-- Where a slot is present, an operation lacks a ring for want of the endpoint (R230, R232). -/
theorem not_epOk_of_absent {s : State} {sid e : Nat} {d : DeviceSlot} (hd : s.slotAt sid = some d)
    (h : s.slotAt sid = none ∨ ¬ (1 ≤ e ∧ e < s.cfg.numEp)) : ¬ s.epOk e = true := by
  rw [epOk_iff]
  exact h.resolve_left (by simp [hd])

/-- XFER to no ring is rejected (R232). -/
theorem exec_xfer_absent {s : State} {sid e : Nat} (b : Raw)
    (h : s.slotAt sid = none ∨ ¬ (1 ≤ e ∧ e < s.cfg.numEp)) :
    exec (.xfer sid e b) s = .next { s with result := .rejected } := by
  simp only [exec, execXfer]
  cases hd : s.slotAt sid with
  | none => rfl
  | some d => exact if_neg (not_epOk_of_absent hd h)

/-- XINIT of no ring does nothing (R230). -/
theorem exec_xinit_absent {s : State} {sid e : Nat} (base : Addr) (size : Word)
    (h : s.slotAt sid = none ∨ ¬ (1 ≤ e ∧ e < s.cfg.numEp)) :
    exec (.xinit sid e base size) s = .next { s with result := .none } := by
  simp only [exec, execXinit]
  cases hd : s.slotAt sid with
  | none => rfl
  | some d => exact if_neg (not_epOk_of_absent hd h)

section
variable {s : State} {sid e : Nat} {d : DeviceSlot}

/-- XFER to a ring, with what `queue` answers (R232). -/
theorem exec_xfer {b : Raw} {r : Ring} {v : Result} (hd : s.slotAt sid = some d) (he : 1 ≤ e ∧ e < s.cfg.numEp)
    (h : (d.ring e).queue b = (r, v)) :
    exec (.xfer sid e b) s = .next { s.setSlot sid (some (d.setRing e r)) with result := v } := by
  simp only [exec, execXfer, hd, (epOk_iff s e).2 he, h, if_true]

/-- XFER to a ring that refuses the TRB leaves the slot table (R232). -/
theorem exec_xfer_refused {b : Raw} {v : Result} (hd : s.slotAt sid = some d) (he : 1 ≤ e ∧ e < s.cfg.numEp)
    (hlen : e < d.rings.length) (h : (d.ring e).queue b = (d.ring e, v)) :
    exec (.xfer sid e b) s = .next { s with result := v } := by
  rw [exec_xfer hd he h, setRing_ring d e hlen, setSlot_self hd]

/-- XINIT that `init` rejects changes nothing (R201, R230). -/
theorem exec_xinit_rejected {base : Addr} {size : Word} (hd : s.slotAt sid = some d) (he : 1 ≤ e ∧ e < s.cfg.numEp)
    (h : Ring.initialise base size.toNat = none) :
    exec (.xinit sid e base size) s = .next { s with result := .initRejected } := by
  simp only [exec, execXinit, hd, (epOk_iff s e).2 he, h, if_true]

/-- XINIT puts the ring that `init` makes in place of the endpoint's (R201, R230). -/
theorem exec_xinit_made {base : Addr} {size : Word} {r : Ring} (hd : s.slotAt sid = some d)
    (he : 1 ≤ e ∧ e < s.cfg.numEp) (h : Ring.initialise base size.toNat = some r) :
    exec (.xinit sid e base size) s = .next { s.setSlot sid (some (d.setRing e r)) with result := .initialised } := by
  simp only [exec, execXinit, hd, (epOk_iff s e).2 he, h, if_true]

end

/-- Settles O37: by what `queue` answers on the ring the operation names. -/
theorem queueOperations : Obligations.QueueOperations := by
  intro s b full stored
  refine ⟨fun h => exec_cmd (queue_uninit b h), fun hi hfull => exec_cmd (queue_full b hi ((full_iff hi).2 hfull)),
    fun hi hfree => exec_cmd (queue_stored_eq b hi hfree), fun _ _ => exec_xfer_absent b,
    fun sid e d hd hlo hhi hlen => ⟨fun h => ?_, fun hi hfull => ?_, fun hi hfree => ?_⟩⟩
  · exact exec_xfer_refused hd ⟨hlo, hhi⟩ hlen (queue_uninit b h)
  · exact exec_xfer_refused hd ⟨hlo, hhi⟩ hlen (queue_full b hi ((full_iff hi).2 hfull))
  · exact exec_xfer hd ⟨hlo, hhi⟩ (queue_stored_eq b hi hfree)

/-- Settles O38: by the ring the operation names, then by whether `init` takes the base and the size. -/
theorem transferRingInit : Obligations.TransferRingInit := by
  intro s sid e base size
  have hsize : size = 0 ↔ size.toNat = 0 := by rw [← BitVec.toNat_inj]; rfl
  refine ⟨exec_xinit_absent base size, fun d hd hlo hhi => ⟨fun hbad => ?_, fun hsz hbase halign => ?_⟩⟩
  · rw [hsize] at hbad
    exact exec_xinit_rejected hd ⟨hlo, hhi⟩ (if_pos hbad)
  · rw [ne_eq, hsize] at hsz
    exact exec_xinit_made hd ⟨hlo, hhi⟩ (if_neg (not_or.2 ⟨hsz, not_or.2 ⟨hbase, not_not.2 halign⟩⟩))

end Sys2Proof.Machine
end

section
/-! PROOFS. The registers' values and writes as the statements write them: words of flags and fields as sums, halves of
pointers, write-1-to-clear bits, and the law of a register from the access its meaning makes (R82, R83, R86). -/

namespace Sys2Proof.Machine

open Sys2Proof.Claims

/-! ### Fields and pointers as numbers -/

/-- A field as a number cut to its width (R13). -/
theorem field_eq_ofNat {n : Nat} (v : BitVec n) (lo len : Nat) :
    field v lo len = BitVec.ofNat len (v.toNat / 2 ^ lo) :=
  BitVec.eq_of_toNat_eq (field_toNat v lo len)

/-- A field that starts at bit 0 (R13). -/
theorem field_zero {n : Nat} (v : BitVec n) (len : Nat) : field v 0 len = BitVec.ofNat len v.toNat := by
  rw [field_eq_ofNat, pow_zero, Nat.div_one]

/-- A pointer register of bits 63:6 as an address (R160, R161, R163). -/
theorem ptr6_eq (p : BitVec 58) : ptr6 p = BitVec.ofNat 64 (p.toNat * 64) := by
  have := p.isLt
  apply BitVec.eq_of_toNat_eq
  simp only [ptr6, toNat_append_eq, BitVec.toNat_ofNat]
  omega

/-- A pointer register of bits 63:4 as an address (R163). -/
theorem ptr4_eq (p : BitVec 60) : ptr4 p = BitVec.ofNat 64 (p.toNat * 16) := by
  have := p.isLt
  apply BitVec.eq_of_toNat_eq
  simp only [ptr4, toNat_append_eq, BitVec.toNat_ofNat]
  omega

/-- The low half of a pointer of bits 63:6 (R83). -/
theorem lo32_ptr6 (p : BitVec 58) : lo32 (ptr6 p) = w32 (p.toNat * 64) := by
  apply BitVec.eq_of_toNat_eq
  simp only [lo32, field_toNat, ptr6_eq, BitVec.toNat_ofNat]
  omega

/-- The high half of a pointer of bits 63:6 (R83). -/
theorem hi32_ptr6 (p : BitVec 58) : hi32 (ptr6 p) = w32 (p.toNat * 64 / 2 ^ 32) := by
  apply BitVec.eq_of_toNat_eq
  simp only [hi32, field_toNat, ptr6_eq, BitVec.toNat_ofNat]
  omega

/-- The high half of a pointer of bits 63:4 (R83). -/
theorem hi32_ptr4 (p : BitVec 60) : hi32 (ptr4 p) = w32 (p.toNat * 16 / 2 ^ 32) := by
  apply BitVec.eq_of_toNat_eq
  simp only [hi32, field_toNat, ptr4_eq, BitVec.toNat_ofNat]
  omega

/-- A write of the low half of a pointer of bits 63:6 (R83). -/
theorem setPtr6Lo_eq (p : BitVec 58) (v : Word) : setPtr6Lo p v = low6 p v := by
  apply BitVec.eq_of_toNat_eq
  simp only [setPtr6Lo, low6, toNat_append_eq, field_toNat, BitVec.toNat_ofNat]
  omega

/-- A write of the high half of a pointer of bits 63:6 (R83). -/
theorem setPtr6Hi_eq (p : BitVec 58) (v : Word) : setPtr6Hi p v = high6 p v := by
  apply BitVec.eq_of_toNat_eq
  simp only [setPtr6Hi, high6, toNat_append_eq, field_toNat, BitVec.toNat_ofNat]
  omega

/-- A write of the low half of a pointer of bits 63:4 (R285). -/
theorem setPtr4Lo_eq (p : BitVec 60) (v : Word) : setPtr4Lo p v = low4 p v := by
  apply BitVec.eq_of_toNat_eq
  simp only [setPtr4Lo, low4, toNat_append_eq, field_toNat, BitVec.toNat_ofNat]
  omega

/-- A write of the high half of a pointer of bits 63:4 (R285). -/
theorem setPtr4Hi_eq (p : BitVec 60) (v : Word) : setPtr4Hi p v = high4 p v := by
  apply BitVec.eq_of_toNat_eq
  simp only [setPtr4Hi, high4, toNat_append_eq, field_toNat, BitVec.toNat_ofNat]
  omega

/-! ### Words of flags and fields as sums -/

/-- A register word as a number below `2 ^ k`: its bits from k on are free for the next field. -/
structure Packs (w : Word) (n k : Nat) : Prop where
  eq : w = w32 n
  lt : n < 2 ^ k

/-- A field above the packed bits adds its value at its place. -/
theorem Packs.or_field {w : Word} {n k len : Nat} (h : Packs w n k) (x : BitVec len) (lo : Nat) (hk : k ≤ lo) :
    Packs (w ||| (x.setWidth 32 <<< lo)) (x.toNat * 2 ^ lo + n) (lo + len) := by
  have hn : n < 2 ^ lo := h.lt.trans_le (Nat.pow_le_pow_right (by decide) hk)
  constructor
  · rw [h.eq, Nat.mul_comm]
    apply BitVec.eq_of_getLsbD_eq
    intro i hi
    simp only [BitVec.getLsbD_or, BitVec.getLsbD_shiftLeft, BitVec.getLsbD_setWidth, BitVec.getLsbD_ofNat, hi,
      Nat.testBit_two_pow_mul_add x.toNat hn i, decide_true, Bool.true_and]
    by_cases hlo : i < lo
    · simp [hlo]
    · have hzero : n.testBit i = false :=
        Nat.testBit_lt_two_pow (hn.trans_le (Nat.pow_le_pow_right (by decide) (by omega)))
      simp [hlo, hzero, BitVec.getLsbD, show i - lo < 32 by omega]
  · calc x.toNat * 2 ^ lo + n < (x.toNat + 1) * 2 ^ lo := by rw [Nat.succ_mul]; omega
      _ ≤ 2 ^ len * 2 ^ lo := Nat.mul_le_mul_right _ x.isLt
      _ = 2 ^ (lo + len) := by rw [pow_add, Nat.mul_comm]

/-- A flag as a number. -/
theorem digit_eq (b : Bool) (i : Nat) : digit b i = (BitVec.ofBool b).toNat * 2 ^ i := by
  cases b <;> simp [digit]

/-- A flag above the packed bits adds its digit. -/
theorem Packs.or_flag {w : Word} {n k : Nat} (h : Packs w n k) (b : Bool) (i : Nat) (hk : k ≤ i) :
    Packs (w ||| flag b i) (digit b i + n) (i + 1) := by
  rw [digit_eq]
  exact h.or_field (BitVec.ofBool b) i hk

/-- A flag alone. -/
theorem packs_flag (b : Bool) (i : Nat) : Packs (flag b i) (digit b i) (i + 1) := by
  have hzero : Packs 0 0 0 := ⟨rfl, by decide⟩
  simpa using hzero.or_flag b i (Nat.zero_le i)

/-- A write-1-to-clear bit as a choice (R86). -/
theorem w1c_eq (old written : Bool) : w1c old written = if written then false else old := by
  cases written <;> simp [w1c]

/-! ### The law of a register -/

/-- A register keeps the law of the access its meaning makes (R82, R85). -/
theorem registerLaw_of_access {mk : Access → Instr} {s : State} {value value' : Word} {write : Word → State → State}
    {write' : Word → State} (h : ∀ a, exec (mk a) s = accessRegister a value write s) (hvalue : value = value')
    (hwrite : ∀ v, write v s = write' v) : RegisterLaw mk s value' write' := by
  refine ⟨fun lane => ?_, fun v => ?_, fun lane => h _⟩
  · rw [h, hvalue]
    rfl
  · rw [h, ← hwrite]
    rfl

end Sys2Proof.Machine
end

section
/-! PROOFS. The Operational bank and the port registers: USBCMD (R260 to R262), CRCR (R267 to R269), PORTSC (R271 to R273)
and the registers that only store (R264 to R266, R270, R274). -/

namespace Sys2Proof.Machine

open Sys2Proof.Claims

/-! ### CRCR -/

/-- What the low half of CRCR reads (R267). -/
theorem crcrLoWord_eq (st : CmdRingState) : crcrLoWord st = w32 (digit (decide (st = .running)) 3) := (packs_flag _ 3).eq

/-- Every lane of 0 is 0 (R82). -/
theorem laneValue_zero (lane : Lane) : laneValue lane 0 = 0 := by
  cases lane <;> simp [laneValue, field]

/-- A pointer of bits 63:6 is 0 as an address only where it is 0. -/
theorem ptr6_eq_zero_iff (p : BitVec 58) : ptr6 p = 0 ↔ p = 0 := by
  have := p.isLt
  rw [← BitVec.toNat_inj, ← BitVec.toNat_inj, ptr6_eq, BitVec.toNat_ofNat]
  simp only [BitVec.ofNat_eq_ofNat, BitVec.toNat_ofNat]
  omega

/-- `init` takes the address of a pointer of bits 63:6 unless it is 0 (R201). -/
theorem initialise_ptr6 {p : BitVec 58} {size : Nat} (hp : p ≠ 0) (hsize : size ≠ 0) :
    Ring.initialise (ptr6 p) size
      = some ⟨true, BitVec.ofNat 64 (p.toNat * 64), size, List.replicate size 0, 0, true, 0, true⟩ := by
  have hbase : ptr6 p ≠ 0 := mt (ptr6_eq_zero_iff p).1 hp
  have halign : (ptr6 p).toNat % 16 = 0 := by
    rw [ptr6_eq, BitVec.toNat_ofNat]
    omega
  rw [← ptr6_eq]
  exact if_neg (not_or.2 ⟨hsize, not_or.2 ⟨hbase, not_not.2 halign⟩⟩)

/-- A command ring that is uninitialised or holds no unconsumed TRB, so that a pointer write may make it anew (R268). -/
def Ring.Free (r : Ring) : Prop := r.init = false ∨ (r.slots.getD r.deq 0).getLsbD 96 ≠ r.ccs

/-- A ring is free where the model finds it uninitialised or empty (R200, R268). -/
theorem ring_free_iff (r : Ring) : r.Free ↔ r.init = false ∨ r.empty = true := by
  cases hi : r.init <;> simp [Ring.Free, Ring.empty, Ring.valid, Ring.at, hi, rawCycle_eq]

/-- A sound configuration gives the command ring at least one slot (R11). -/
theorem cmdRingSize_ne_zero {c : Config} (h : c.ok = true) : c.cmdRingSize ≠ 0 := by
  simp only [Config.ok, Bool.and_eq_true, decide_eq_true_eq] at h
  omega

/-- A pointer that is not 0 makes a free command ring anew (R202, R268). -/
theorem crcrInit_made {s : State} (hok : s.cfg.ok = true) (h : s.crcrPtr ≠ 0 ∧ s.cmdRing.Free) :
    crcrInit s = { s with
      cmdRing := ⟨true, BitVec.ofNat 64 (s.crcrPtr.toNat * 64), s.cfg.cmdRingSize,
        List.replicate s.cfg.cmdRingSize 0, 0, true, 0, true⟩
      cmdState := .running } := by
  obtain ⟨hptr, hfree⟩ := h
  unfold crcrInit
  rw [if_pos ⟨mt (ptr6_eq_zero_iff _).1 hptr, (ring_free_iff _).1 hfree⟩,
    initialise_ptr6 hptr (cmdRingSize_ne_zero hok)]

/-- Otherwise the ring is left (R268). -/
theorem crcrInit_kept {s : State} (h : ¬ (s.crcrPtr ≠ 0 ∧ s.cmdRing.Free)) : crcrInit s = s :=
  if_neg fun hc => h ⟨mt (ptr6_eq_zero_iff _).2 hc.1, (ring_free_iff _).2 hc.2⟩

/-- A low write with CS or CA set only stops or aborts (R268, R269). -/
theorem writeCrcrLo_stop (s : State) {v : Word} (h : v.getLsbD 1 = true ∨ v.getLsbD 2 = true) :
    writeCrcrLo v s = stopOrAbort (v.getLsbD 2) s :=
  if_pos (Bool.or_eq_true_iff.2 h)

/-- Any other low write stores its half, then looks at the ring (R268). -/
theorem writeCrcrLo_store (s : State) {v : Word} (h1 : v.getLsbD 1 = false) (h2 : v.getLsbD 2 = false) :
    writeCrcrLo v s = crcrInit { s with crcrPtr := low6 s.crcrPtr v, crcrRcs := v.getLsbD 0 } := by
  rw [← setPtr6Lo_eq]
  have hbits : ¬ (bit v 1 || bit v 2) = true := by rw [bit, bit, h1, h2]; decide
  exact if_neg hbits

/-- A high write stores its half, then looks at the ring (R268). -/
theorem writeCrcrHi_store (s : State) (v : Word) :
    writeCrcrHi v s = crcrInit { s with crcrPtr := high6 s.crcrPtr v } := by
  rw [← setPtr6Hi_eq]
  rfl

/-- What a stop or abort leaves: the ring's new state and one Command Ring Stopped event, where the ring runs (R269). -/
theorem stopOrAbort_eq (ca : Bool) (s : State) :
    stopOrAbort ca s = if s.cmdState = .running then
        ({ s with cmdState := if ca then .aborted else .stopped }.postEvent 0
          (completionTrb (s.cmdRing.base + BitVec.ofNat 64 (16 * s.cmdRing.deq)) 0 24 0)).1
      else s := by
  unfold stopOrAbort State.complete
  rw [createCompletionEvent_eq]
  rfl

/-- Settles O17: by the bits CS and CA of a low write, then by whether the pointer and the ring ask for a new ring. -/
theorem crcrRule : Obligations.CrcrRule := by
  intro s hok ring free stop
  have hlo : ∀ v, exec (.crcrLo (.write v)) s = .next { writeCrcrLo v s with result := .none } := fun _ => rfl
  have hhi : ∀ v, exec (.crcrHi (.write v)) s = .next { writeCrcrHi v s with result := .none } := fun _ => rfl
  refine ⟨fun lane => ?_, fun lane => ?_, fun lane => ⟨rfl, rfl⟩, fun v hv => ?_,
    fun v h1 h2 => ⟨fun h => ?_, fun h => ?_⟩, fun v => ⟨fun h => ?_, fun h => ?_⟩⟩
  · rw [← crcrLoWord_eq]
    rfl
  · rw [← laneValue_zero lane]
    rfl
  · rw [hlo, writeCrcrLo_stop s hv, stopOrAbort_eq]
  · rw [hlo, writeCrcrLo_store s h1 h2, crcrInit_made]
    exacts [hok, h]
  · rw [hlo, writeCrcrLo_store s h1 h2, crcrInit_kept h]
  · rw [hhi, writeCrcrHi_store s v, crcrInit_made]
    exacts [hok, h]
  · rw [hhi, writeCrcrHi_store s v, crcrInit_kept h]

/-! ### PORTSC -/

/-- A register of a port that exists keeps the law of its access (R84). -/
theorem registerLaw_port {mk : Access → Instr} {s : State} {p : Nat} {value : Port → Word} {value' : Word}
    {write : Word → State → State} {write' : Word → State} (hp : p < s.cfg.maxPorts)
    (h : ∀ a, exec (mk a) s = accessPort p a value write s) (hvalue : value (s.port p) = value')
    (hwrite : ∀ v, write v s = write' v) : RegisterLaw mk s value' write' :=
  registerLaw_of_access (fun a => (h a).trans (if_pos hp)) hvalue hwrite

/-- What PORTSC reads (R271). -/
theorem portWord_eq (q : Port) :
    q.word = w32 (digit q.woe 27 + digit q.wde 26 + digit q.wce 25 + digit q.prc 21 + digit q.wrc 19 + digit q.pec 18
      + digit q.csc 17 + q.speed.toNat * 2 ^ 10 + digit q.pp 9 + q.pls.toNat * 2 ^ 5 + digit q.ped 1
      + digit q.ccs 0) := by
  have hlink := ((packs_flag q.ccs 0).or_flag q.ped 1 (by decide)).or_field q.pls 5 (by decide)
  have hspeed := (hlink.or_flag q.pp 9 (by decide)).or_field q.speed 10 (by decide)
  have hchanges := (((hspeed.or_flag q.csc 17 (by decide)).or_flag q.pec 18 (by decide)).or_flag q.wrc 19
    (by decide)).or_flag q.prc 21 (by decide)
  have hwake := ((hchanges.or_flag q.wce 25 (by decide)).or_flag q.wde 26 (by decide)).or_flag q.woe 27 (by decide)
  rw [Port.word, hwake.eq]
  simp only [Nat.add_assoc]

/-- The Port Status Change Event as R117 writes it out. -/
theorem createPortStatusChangeEvent_eq (p : Nat) : createPortStatusChangeEvent p = portTrb p := by
  have hparameter : BitVec.ofNat 64 (p + 1) <<< 24 = BitVec.ofNat 64 ((p + 1) * 2 ^ 24) := by
    apply BitVec.eq_of_toNat_eq
    simp only [BitVec.toNat_shiftLeft, BitVec.toNat_ofNat, Nat.shiftLeft_eq]
    omega
  rw [createPortStatusChangeEvent, hparameter]
  rfl

/-- What a port change leaves, as the statements write it (R402). -/
theorem portChange_eq (s : State) (p : Nat) : s.portChange p = portChanged s p := by
  rw [State.portChange, createPortStatusChangeEvent_eq]
  rfl

/-- Two changes of one port in turn. -/
theorem modifyPort_modifyPort (s : State) (p : Nat) (f g : Port → Port) :
    (s.modifyPort p f).modifyPort p g = s.modifyPort p (fun q => g (f q)) := by
  simp only [State.modifyPort, List.modify_modify_eq]
  rfl

/-- A PORTSC write with bit 4 set resets the port and posts its change; any other stores its bits (R272, R273). -/
theorem writePortsc_eq (p : Nat) (v : Word) (s : State) :
    writePortsc p v s = if v.getLsbD 4 then portChanged (s.modifyPort p (fun q => (q.write v).reset)) p
      else s.modifyPort p (fun q => q.write v) := by
  rw [← portChange_eq, ← modifyPort_modifyPort]
  rfl

/-- Settles O18: by bit 4 of the written word; with it the port is reset after its bits are stored. -/
theorem portscRule : Obligations.PortscRule := by
  intro s p hp q written
  refine registerLaw_port hp (fun _ => rfl) (portWord_eq q) fun v => ?_
  rw [writePortsc_eq]
  by_cases hreset : v.getLsbD 4 = true
  · have hport : (fun q : Port => (q.write v).reset) = written v := by
      funext q
      cases hc : q.ccs <;> simp [Port.reset, Port.write, written, w1c_eq, bit, hreset, hc]
    rw [if_pos hreset, if_pos hreset, hport]
  · rw [Bool.not_eq_true] at hreset
    have hport : (fun q : Port => q.write v) = written v := by
      funext q
      simp only [Port.write, written, w1c_eq, bit, hreset, Bool.false_and, Bool.false_eq_true, if_false]
    rw [hreset, if_neg Bool.false_ne_true, if_neg Bool.false_ne_true, hport]

/-! ### The other registers -/

/-- What USBCMD reads (R260). -/
theorem usbcmdWord_eq (u : UsbCmd) :
    u.word = w32 (digit u.ewe 10 + digit u.hsee 3 + digit u.inte 2 + digit u.rs 0) := by
  have h := (((packs_flag u.rs 0).or_flag u.inte 2 (by decide)).or_flag u.hsee 3 (by decide)).or_flag u.ewe 10
    (by decide)
  rw [UsbCmd.word, h.eq]
  simp only [Nat.add_assoc]

/-- What USBSTS reads (R264). -/
theorem usbstsWord_eq (ctrl : CtrlState) (u : UsbSts) :
    usbstsWord ctrl u = w32 (digit u.sre 10 + digit u.pcd 4 + digit u.eint 3 + digit u.hse 2
      + digit (decide (ctrl = .halted)) 0) := by
  have h := ((((packs_flag (decide (ctrl = .halted)) 0).or_flag u.hse 2 (by decide)).or_flag u.eint 3
    (by decide)).or_flag u.pcd 4 (by decide)).or_flag u.sre 10 (by decide)
  rw [usbstsWord, h.eq]
  simp only [Nat.add_assoc]

/-- The write-1-to-clear bits of USBSTS (R265). -/
theorem usbstsWrite_eq (u : UsbSts) (v : Word) :
    u.write v = ⟨if v.getLsbD 2 then false else u.hse, if v.getLsbD 3 then false else u.eint,
      if v.getLsbD 4 then false else u.pcd, if v.getLsbD 10 then false else u.sre⟩ := by
  simp only [UsbSts.write, w1c_eq, bit]

/-- Settles O14: the stored bits as a sum; a write is a controller reset or a store of four bits, as the model has it. -/
theorem usbcmdRule : Obligations.UsbcmdRule := fun s =>
  registerLaw_of_access (fun _ => rfl) (usbcmdWord_eq s.usbcmd) fun _ => rfl

/-- Settles O16: each register by its value and its write as numbers. -/
theorem statusAndPlainRegisters : Obligations.StatusAndPlainRegisters := by
  intro s
  refine ⟨registerLaw_of_access (fun _ => rfl) (usbstsWord_eq s.ctrl s.usbsts) fun v => ?_,
    registerLaw_constant fun _ => rfl,
    registerLaw_of_access (fun _ => rfl) (BitVec.ofNat_toNat ..).symm fun v => ?_,
    registerLaw_of_access (write := fun v s => { s with dcbaap := setPtr6Lo s.dcbaap v }) (fun _ => rfl)
      (lo32_ptr6 s.dcbaap) fun v => ?_,
    registerLaw_of_access (write := fun v s => { s with dcbaap := setPtr6Hi s.dcbaap v }) (fun _ => rfl)
      (hi32_ptr6 s.dcbaap) fun v => ?_,
    registerLaw_of_access (write := fun v s => { s with maxSlotsEn := field v 0 8 }) (fun _ => rfl)
      (BitVec.ofNat_toNat ..).symm fun v => ?_,
    fun p hp => ⟨registerLaw_port hp (fun _ => rfl) rfl fun _ => rfl,
      fun _ => registerLaw_constant fun _ => if_pos hp⟩⟩
  · rw [writeUsbsts, usbstsWrite_eq]
  · rw [writeDnctrl, field_zero]
  · rw [setPtr6Lo_eq]
  · rw [setPtr6Hi_eq]
  · rw [field_zero]

end Sys2Proof.Machine
end

section
/-! PROOFS. The Runtime bank: IMAN, IMOD and ERSTSZ (R281, R282), the load of an event ring's segments by an ERSTBA write
(R220, R283), and ERDP (R285). -/

namespace Sys2Proof.Machine

open Sys2Proof.Claims

/-- A register of an interrupter that exists keeps the law of its access (R84). -/
theorem registerLaw_intr {mk : Access → Instr} {s : State} {n : Nat} {value : Interrupter → Word} {value' : Word}
    {write : Word → State → State} {write' : Word → State} (hn : n < s.cfg.maxIntrs)
    (h : ∀ a, exec (mk a) s = accessIntr n a value write s) (hvalue : value (s.intr n) = value')
    (hwrite : ∀ v, write v s = write' v) : RegisterLaw mk s value' write' :=
  registerLaw_of_access (fun a => (h a).trans (if_pos hn)) hvalue hwrite

/-! ### IMAN, IMOD and ERSTSZ -/

/-- What IMAN reads (R281). -/
theorem imanWord_eq (i : Interrupter) : i.imanWord = w32 (digit i.ie 1 + digit i.ip 0) :=
  ((packs_flag i.ip 0).or_flag i.ie 1 (by decide)).eq

/-- What IMOD reads (R282). -/
theorem imodWord_eq (i : Interrupter) : i.imodWord = w32 (i.imodc.toNat * 2 ^ 16 + i.imodi.toNat) := by
  have := (i.imodc ++ i.imodi).isLt
  apply BitVec.eq_of_toNat_eq
  simp only [Interrupter.imodWord, toNat_append_eq, BitVec.toNat_ofNat] at this ⊢
  omega

/-- Settles O20: each register by its value and its write as numbers. -/
theorem imanImodErstszRules : Obligations.ImanImodErstszRules := by
  intro s n hn
  refine ⟨registerLaw_intr hn (fun _ => rfl) (imanWord_eq _) fun v => ?_,
    registerLaw_intr hn (fun _ => rfl) (imodWord_eq _) fun v => ?_,
    registerLaw_intr (value := fun i => i.erstsz.setWidth 32) hn (fun _ => rfl) (BitVec.ofNat_toNat ..).symm
      fun v => ?_⟩
  · simp only [Interrupter.writeIman, w1c_eq, bit]
  · simp only [Interrupter.writeImod, field_eq_ofNat, pow_zero, Nat.div_one]
  · rw [field_zero]

/-! ### ERSTBA -/

/-- The segment an ERST entry describes, as numbers (R283). -/
theorem erstEntry_eq (bytes : List Byte) :
    erstEntry bytes = (BitVec.ofNat 64 (leNat (bytes.take 8) / 64 * 64), leNat ((bytes.drop 8).take 2)) := by
  have hlt : leNat (bytes.take 8) < 256 ^ 8 :=
    (leNat_lt _).trans_le (Nat.pow_le_pow_right (by decide) (List.length_take_le 8 bytes))
  rw [erstEntry, ptr6_eq, Prod.mk.injEq]
  refine ⟨BitVec.eq_of_toNat_eq ?_, rfl⟩
  simp only [field_toNat, BitVec.toNat_ofNat]
  omega

/-- The base of an ERST entry is aligned for an event ring's segment (R220, R283). -/
theorem erstEntry_aligned (bytes : List Byte) : (erstEntry bytes).1.toNat % 16 = 0 := by
  rw [erstEntry_eq, BitVec.toNat_ofNat]
  omega

/-- One read of the ERST at address a: entry j after those read so far, where none of them failed (R283). -/
def erstStep (a : Addr) (acc : Option (List (Addr × Nat)) × State) (j : Nat) :
    Option (List (Addr × Nat)) × State :=
  match acc.1 with
  | none => acc
  | some gs =>
    let r := acc.2.memRead (a + BitVec.ofNat 64 (16 * j)) 16
    (r.1.map (fun e => gs ++ [erstEntry e]), r.2)

/-- After a read that failed there is no other (R283). -/
theorem erstSteps_none (a : Addr) (js : List Nat) (s : State) : js.foldl (erstStep a) (none, s) = (none, s) := by
  induction js with
  | nil => rfl
  | cons j js ih => exact ih

/-- The reads of `readErst`, counted from entry j on, are the steps over those entries (R283). -/
theorem erstSteps_eq (a : Addr) (k j : Nat) (gs : List (Addr × Nat)) (s : State) :
    (List.range' j k).foldl (erstStep a) (some gs, s)
      = ((readErst (a + BitVec.ofNat 64 (16 * j)) k s).1.map (gs ++ ·),
          (readErst (a + BitVec.ofNat 64 (16 * j)) k s).2) := by
  induction k generalizing j gs s with
  | zero => simp [readErst]
  | succ k ih =>
    have hnext : a + BitVec.ofNat 64 (16 * j) + 16 = a + BitVec.ofNat 64 (16 * (j + 1)) := by
      rw [Nat.mul_succ, BitVec.ofNat_add, BitVec.add_assoc]
      rfl
    rw [List.range'_succ, List.foldl_cons, readErst, hnext]
    cases hread : (s.memRead (a + BitVec.ofNat 64 (16 * j)) 16).1 with
    | none =>
      simp only [erstStep, hread, Option.map_none]
      exact erstSteps_none a _ _
    | some bytes =>
      simp only [erstStep, hread, Option.map_some]
      rw [ih]
      simp [Option.map_map, Function.comp_def]

/-- `readErst` is the steps over its entries in order, stopping at the first read that failed (R283). -/
theorem readErst_eq_steps (a : Addr) (k : Nat) (s : State) :
    readErst a k s = (List.range k).foldl (erstStep a) (some [], s) := by
  rw [List.range_eq_range', erstSteps_eq]
  simp

/-- What the reads of k entries answer: k segments with aligned bases (R283). -/
theorem readErst_some {a : Addr} {k : Nat} {s : State} {gs : List (Addr × Nat)} (h : (readErst a k s).1 = some gs) :
    gs.length = k ∧ ∀ g ∈ gs, g.1.toNat % 16 = 0 := by
  induction k generalizing a s gs with
  | zero =>
    cases h
    simp
  | succ k ih =>
    simp only [readErst] at h
    split at h
    · cases h
    · next bytes _ =>
      obtain ⟨rest, hrest, rfl⟩ := Option.map_eq_some_iff.1 h
      obtain ⟨hlen, halign⟩ := ih hrest
      exact ⟨congrArg (· + 1) hlen, List.forall_mem_cons.2 ⟨erstEntry_aligned bytes, halign⟩⟩

/-- `set_segments` on aligned bases rejects a segment without base or size, and nothing else (R220). -/
theorem setSegments_aligned {gs : List (Addr × Nat)} (hne : gs ≠ []) (halign : ∀ g ∈ gs, g.1.toNat % 16 = 0) :
    EventRing.setSegments gs = if gs.any (fun g => decide (g.2 = 0 ∨ g.1 = 0)) then none
      else some ⟨gs.map (fun g => ⟨g.1, g.2, List.replicate g.2 0⟩), 0, 0, true, 0, 0, 0, 0, true⟩ := by
  have hany : gs.any segRejected = gs.any (fun g => decide (g.2 = 0 ∨ g.1 = 0)) := by
    rw [Bool.eq_iff_iff, List.any_eq_true, List.any_eq_true]
    exact exists_congr fun g => and_congr_right fun hg => by simp [segRejected, halign g hg]
  rw [EventRing.setSegments, hany]
  simp only [hne, false_or]

/-- The number of entries does not allow a load (R283). -/
theorem loadErst_skipped {n : Nat} {s : State}
    (h : (s.intr n).erstsz.toNat = 0 ∨ 2 ^ s.cfg.erstMaxExp < (s.intr n).erstsz.toNat) : loadErst n s = s :=
  if_pos h

/-- What the reads of the ERST make of the state: where all of them succeeded and each entry has a base and a size, event
ring n gets those segments (R220, R283). -/
def erstLoaded (n : Nat) : Option (List (Addr × Nat)) × State → State
  | (none, t) => t
  | (some gs, t) =>
    if gs.any (fun g => decide (g.2 = 0 ∨ g.1 = 0)) then t
    else
      { t with
        evRings := t.evRings.set n
          ⟨gs.map (fun g => ⟨g.1, g.2, List.replicate g.2 0⟩), 0, 0, true, 0, 0, 0, 0, true⟩ }

/-- What an ERSTBA write does after it has stored its half, where the number of entries allows a load (R283). -/
theorem loadErst_read {n : Nat} {s : State}
    (h : ¬ ((s.intr n).erstsz.toNat = 0 ∨ 2 ^ s.cfg.erstMaxExp < (s.intr n).erstsz.toNat)) :
    loadErst n s = erstLoaded n (readErst (ptr6 (s.intr n).erstba) (s.intr n).erstsz.toNat s) := by
  unfold loadErst
  rw [if_neg h]
  generalize hread : readErst (ptr6 (s.intr n).erstba) (s.intr n).erstsz.toNat s = answer
  obtain ⟨r, t⟩ := answer
  cases r with
  | none => rfl
  | some gs =>
    obtain ⟨hlen, halign⟩ := readErst_some (congrArg Prod.fst hread)
    have hne : gs ≠ [] := fun hnil => h (.inl (by rw [← hlen, hnil]; rfl))
    simp only [setSegments_aligned hne halign, erstLoaded]
    cases gs.any (fun g => decide (g.2 = 0 ∨ g.1 = 0)) <;> rfl

/-- Settles O21: the steps over the entries are the model's reads, and the ring it then makes is the statement's. -/
theorem erstbaLoadsSegments : Obligations.ErstbaLoadsSegments := by
  intro s n hn entry reads load
  have hreads : ∀ k s1, reads k s1 = readErst (ptr6 (s1.intr n).erstba) k s1 := by
    intro k s1
    rw [readErst_eq_steps]
    refine List.foldl_ext _ _ _ fun acc j _ => ?_
    obtain ⟨_ | gs, t⟩ := acc
    · rfl
    · rw [erstStep, ptr6_eq, ← BitVec.ofNat_add, show erstEntry = entry from funext erstEntry_eq]
  have hload : ∀ f : Interrupter → Interrupter, (∀ i, (f i).erstsz = i.erstsz) →
      loadErst n (s.modifyIntr n f) = load (s.modifyIntr n f) := by
    intro f hf
    have hsize : ((s.modifyIntr n f).intr n).erstsz = (s.intr n).erstsz :=
      getD_modify_keeps Interrupter.erstsz _ _ _ _ _ hf
    by_cases h : (s.intr n).erstsz.toNat = 0 ∨ 2 ^ s.cfg.erstMaxExp < (s.intr n).erstsz.toNat
    · rw [loadErst_skipped (by rw [hsize]; exact h)]
      exact (if_pos h).symm
    · rw [loadErst_read (by rw [hsize]; exact h), hsize, ← hreads]
      exact (if_neg h).symm
  refine ⟨registerLaw_intr (value := fun i => lo32 (ptr6 i.erstba)) hn (fun _ => rfl) (lo32_ptr6 _) fun v => ?_,
    registerLaw_intr (value := fun i => hi32 (ptr6 i.erstba)) hn (fun _ => rfl) (hi32_ptr6 _) fun v => ?_⟩
  · simp only [writeErstbaLo, setPtr6Lo_eq]
    exact hload _ fun _ => rfl
  · simp only [writeErstbaHi, setPtr6Hi_eq]
    exact hload _ fun _ => rfl

/-! ### ERDP -/

/-- What the low half of ERDP reads (R285). -/
theorem erdpLoWord_eq (i : Interrupter) :
    i.erdpLoWord = w32 (i.erdpPtr.toNat * 16 + digit i.ehb 3 + i.desi.toNat) := by
  have := i.desi.isLt
  have hehb := (BitVec.ofBool i.ehb).isLt
  apply BitVec.eq_of_toNat_eq
  simp only [Interrupter.erdpLoWord, digit_eq, toNat_append_eq, field_toNat, BitVec.toNat_ofNat]
  omega

/-- The dequeue update of ERDP, as the statements write it (R285). -/
theorem erdpUpdate_eq (n : Nat) (s : State) :
    erdpUpdate n s = { s with
      evRings := s.evRings.set n ((s.evRing n).setDequeuePtr (BitVec.ofNat 64 ((s.intr n).erdpPtr.toNat * 16))) } := by
  rw [← ptr4_eq]
  rfl

/-- Settles O22: each half stores its bits, then both make the one dequeue update. -/
theorem erdpRule : Obligations.ErdpRule := by
  intro s n hn update
  refine ⟨registerLaw_intr hn (fun _ => rfl) (erdpLoWord_eq _) fun v => ?_,
    registerLaw_intr (value := fun i => hi32 (ptr4 i.erdpPtr)) hn (fun _ => rfl) (hi32_ptr4 _) fun v => ?_⟩
  · rw [writeErdpLo, erdpUpdate_eq]
    simp only [Interrupter.writeErdpLo, setPtr4Lo_eq, w1c_eq, bit, field_zero]
    rfl
  · rw [writeErdpHi, erdpUpdate_eq]
    simp only [setPtr4Hi_eq]
    rfl

end Sys2Proof.Machine
end

section
/-! PROOFS. The doorbells: their reads and targets, and the drains a write starts (R290, R291, R371 to R374, R380). -/

namespace Sys2Proof.Machine

open Sys2Proof.Claims

/-- Where the controller runs and the command ring is initialised or Running, a command drain starts (R320, R372). -/
theorem doorbellCommand_starts {s : State} (h : s.ctrl = .running ∧ (s.cmdRing.init = true ∨ s.cmdState = .running)) :
    doorbellCommand s = startLocked (.cmdDrain false) { s with cmdState := .running } := by
  obtain ⟨hctrl, hring⟩ := h
  unfold doorbellCommand
  by_cases hrun : s.cmdState = .running
  · have hidle : ¬ (s.ctrl = .running ∧ s.cmdRing.init = true ∧ (s.cmdState = .stopped ∨ s.cmdState = .aborted)) := by
      simp [hrun]
    have hsame : s = { s with cmdState := .running } := by rw [← hrun]
    simp only [if_neg hidle]
    rw [if_pos ⟨hctrl, hrun⟩]
    exact congrArg (startLocked _) hsame
  · have hinit : s.cmdRing.init = true := hring.resolve_right hrun
    have hidle : s.cmdState = .stopped ∨ s.cmdState = .aborted := by
      cases hc : s.cmdState with
      | stopped => exact .inl rfl
      | running => exact absurd hc hrun
      | aborted => exact .inr rfl
    simp only [hctrl, hinit, hidle, and_self, if_true]

/-- Otherwise nothing is drained (R372). -/
theorem doorbellCommand_ignored {s : State}
    (h : ¬ (s.ctrl = .running ∧ (s.cmdRing.init = true ∨ s.cmdState = .running))) : doorbellCommand s = s := by
  have hinit : ¬ (s.ctrl = .running ∧ s.cmdRing.init = true ∧ (s.cmdState = .stopped ∨ s.cmdState = .aborted)) :=
    fun hc => h ⟨hc.1, .inl hc.2.1⟩
  have hrun : ¬ (s.ctrl = .running ∧ s.cmdState = .running) := fun hc => h ⟨hc.1, .inr hc.2⟩
  unfold doorbellCommand
  simp only [if_neg hinit, if_neg hrun]

/-- A write of doorbell 0 stores its target and rings the command ring (R290, R371). -/
theorem writeDb_zero (v : Word) (s : State) :
    writeDb 0 v s = doorbellCommand { s with db := s.db.set 0 (BitVec.ofNat 8 v.toNat) } := by
  rw [← field_zero]
  rfl

/-- A write of a doorbell that exists has the effect of its write (R84, R290). -/
theorem exec_db_write {s : State} {i : Nat} (v : Word) (hi : i ≤ s.cfg.maxSlots) :
    exec (.db i (.write v)) s = .next { writeDb i v s with result := .none } := if_pos hi

/-- Settles O23: by whether the write finds a controller and a command ring to drain. -/
theorem commandDoorbell : Obligations.CommandDoorbell := by
  intro s
  refine ⟨fun i lane hi => ⟨?_, if_pos hi⟩, fun v h => ?_, fun v h => ?_⟩
  · rw [w32, BitVec.ofNat_toNat]
    exact if_pos hi
  · rw [exec_db_write v (Nat.zero_le _), writeDb_zero, doorbellCommand_starts]
    exacts [rfl, h]
  · rw [exec_db_write v (Nat.zero_le _), writeDb_zero, doorbellCommand_ignored]
    exact h

/-- Storing a doorbell's target leaves the slot table. -/
theorem storeDb_slotAt (s : State) (targets : List (BitVec 8)) (i : Nat) :
    ({ s with db := targets } : State).slotAt i = s.slotAt i := rfl

/-- A write of the doorbell of an absent slot only stores its target (R371). -/
theorem writeDb_absent {s : State} {i : Nat} (v : Word) (hi : 1 ≤ i) (hd : s.slotAt i = none) :
    writeDb i v s = { s with db := s.db.set i (BitVec.ofNat 8 v.toNat) } := by
  unfold writeDb ringDoorbell
  rw [if_neg (by omega), field_zero]
  simp only [storeDb_slotAt, hd]

/-- A write of the doorbell of a present slot stores its target and rings the endpoint it names (R371). -/
theorem writeDb_present {s : State} {i : Nat} {d : DeviceSlot} (v : Word) (hi : 1 ≤ i) (hd : s.slotAt i = some d) :
    writeDb i v s = ringEp i (v.toNat % 256) d { s with db := s.db.set i (BitVec.ofNat 8 v.toNat) } := by
  unfold writeDb ringDoorbell
  rw [if_neg (by omega), field_low8_toNat, field_zero]
  simp only [storeDb_slotAt, hd]

section
variable {s : State} {sid e : Nat} {d : DeviceSlot}

/-- An endpoint outside 1 to 31 is not rung (R374). -/
theorem ringEp_absent (h : ¬ (1 ≤ e ∧ e < s.cfg.numEp)) : ringEp sid e d s = s :=
  if_neg (mt (epOk_iff s e).1 h)

/-- An atomic drain starts under the lock (R374). -/
theorem ringEp_atomic (h : 1 ≤ e ∧ e < s.cfg.numEp) (hatomic : s.cfg.atomicTransferDrain = true) :
    ringEp sid e d s = startLocked (.xferDrain sid d.serial e false) s := by
  rw [ringEp, if_pos ((epOk_iff s e).2 h), if_pos hatomic]

/-- With a split drain in progress nothing more starts (R380). -/
theorem ringEp_draining (h : 1 ≤ e ∧ e < s.cfg.numEp) (hsplit : s.cfg.atomicTransferDrain = false)
    (hdrain : d.isDraining e = true) : ringEp sid e d s = s := by
  rw [ringEp, if_pos ((epOk_iff s e).2 h), hsplit, if_neg Bool.false_ne_true, if_pos hdrain]

/-- Else a split drain starts, and the endpoint is marked draining (R380). -/
theorem ringEp_split (h : 1 ≤ e ∧ e < s.cfg.numEp) (hsplit : s.cfg.atomicTransferDrain = false)
    (hdrain : d.isDraining e = false) :
    ringEp sid e d s
      = startTask (.xferDrain sid d.serial e false) (s.setSlot sid (some (d.setDraining e true))) := by
  rw [ringEp, if_pos ((epOk_iff s e).2 h), hsplit, if_neg Bool.false_ne_true, hdrain, if_neg Bool.false_ne_true]

end

/-- Settles O24: by the slot, then the endpoint, then the form of its drain. -/
theorem transferDoorbell : Obligations.TransferDoorbell := by
  intro s i v hlo hhi e s1
  rw [exec_db_write v hhi]
  refine ⟨fun hd => by rw [writeDb_absent v hlo hd], fun d hd => ?_⟩
  rw [writeDb_present v hlo hd]
  refine ⟨fun he => ?_, fun he hatomic => ?_, fun he hsplit hdrain => ?_, fun he hsplit hdrain => ?_⟩
  · rw [ringEp_absent]
    exact he
  · rw [ringEp_atomic]
    exacts [rfl, he, hatomic]
  · rw [ringEp_draining]
    exacts [he, hsplit, hdrain]
  · rw [ringEp_split]
    exacts [rfl, he, hsplit, hdrain]

end Sys2Proof.Machine
end

section
/-! PROOFS. The commands on the command ring, each by the one execution of a command (R320): what is answered without an
effect, what a command of a present slot leaves, and the Device Slot each command makes (R322 to R346). -/

namespace Sys2Proof.Machine

open Sys2Proof.Claims

/-! ### Commands without an effect -/

/-- A TRB that is no command completes with TRB Error and the given Slot ID (R345, R346). -/
theorem runTrb_commandTrbError (s : State) (slot : BitVec 8) (g : Nat → Nat → DeviceSlot → State → State × XferResult)
    (hu : s.unit = .command) :
    s.runTrb (commandTrbError slot) g = .next (afterCommand s (pastCommand s) slot.toNat 5 0) :=
  runTrb_afterCommand s _ g hu

/-- On the command ring these TRBs are no commands (R345, R346). -/
theorem exec_notCommand {mk : Trb → Instr} (h : mk ∈ notCommands) (t : Trb) :
    ∃ g, ∀ s, exec (mk t) s = s.runTrb (commandTrbError (slotId t)) g := by
  fin_cases h <;> exact ⟨_, fun _ => rfl⟩

/-- The commands of types 10 to 17 first look up the slot they name (R321). -/
theorem exec_slotCommand {mk : Trb → Instr} (h : mk ∈ slotCommands) (t : Trb) :
    ∃ handle, ∀ s, exec (mk t) s = s.runTrb (slotCommand t handle) transferTrbError := by
  fin_cases h <;> exact ⟨_, fun _ => rfl⟩

/-- No slot is at id 0, above MAX_SLOTS or at an empty entry (R321). -/
theorem slotAt_eq_none {s : State} {sid : Nat}
    (h : sid = 0 ∨ s.cfg.maxSlots < sid ∨ s.slotTab.getD sid none = none) : s.slotAt sid = none := by
  unfold State.slotAt
  split
  · rcases h with h | h | h
    · omega
    · omega
    · exact h
  · rfl

/-- A command of an absent slot completes with Slot Not Enabled (R321). -/
theorem runTrb_slotCommand_absent (s : State) (t : Trb)
    (handle : Nat → DeviceSlot → State → State × BitVec 8 × BitVec 24)
    (g : Nat → Nat → DeviceSlot → State → State × XferResult) (hu : s.unit = .command)
    (h : s.slotAt (t.control.toNat / 2 ^ 24) = none) :
    s.runTrb (slotCommand t handle) g = .next (afterCommand s (pastCommand s) (t.control.toNat / 2 ^ 24) 11 0) := by
  simp only [runTrb_afterCommand s _ _ hu, slotCommand, slotId_toNat, pastCommand_slotAt, h]
  rfl

/-- The raw bits 31:24 of the control word (R321). -/
theorem rawControl_slot_toNat (b : Raw) : (field (rawControl b) 24 8).toNat = b.toNat / 2 ^ 120 := by
  have := b.isLt
  simp only [field, rawControl, BitVec.extractLsb'_toNat, Nat.shiftRight_eq_div_pow]
  omega

/-- Settles O25: a TRB that is no command, a type that is none, and a command of an absent slot. -/
theorem commandsCompletedWithoutEffect : Obligations.CommandsCompletedWithoutEffect := by
  intro s hu
  refine ⟨fun mk hmk t => ?_, fun b => ?_, fun t habsent mk hmk => ?_⟩
  · obtain ⟨g, hexec⟩ := exec_notCommand hmk t
    rw [hexec, runTrb_commandTrbError s _ g hu, slotId_toNat]
  · have hexec : exec (.malformedTrb b) s = _ := runTrb_commandTrbError s _ transferTrbError hu
    rw [hexec, rawControl_slot_toNat]
  · obtain ⟨handle, hexec⟩ := exec_slotCommand hmk t
    rw [hexec, runTrb_slotCommand_absent s t handle _ hu (slotAt_eq_none habsent)]

/-! ### Enable Slot -/

/-- What Enable Slot looks for (R322). -/
theorem slotIsDisabled_iff (s : State) (sid : Nat) :
    s.slotIsDisabled sid = true ↔ ∃ d, s.slotAt sid = some d ∧ d.ctx.state = .disabled := by
  unfold State.slotIsDisabled
  cases s.slotAt sid <;> simp

/-- The slot Enable Slot enables is the lowest one still Disabled (R322). -/
theorem slotToEnable_eq_some {s : State} {sid : Nat} {d : DeviceSlot} (hd : s.slotAt sid = some d)
    (hdisabled : d.ctx.state = .disabled)
    (hlowest : ∀ j d', j < sid → s.slotAt j = some d' → d'.ctx.state ≠ .disabled) : s.slotToEnable = some sid := by
  obtain ⟨hpos, hmax, -⟩ := (slotAt_spec s sid d).1 hd
  rw [State.slotToEnable, List.find?_range'_eq_some]
  refine ⟨(slotIsDisabled_iff s sid).2 ⟨d, hd, hdisabled⟩, List.mem_range'_1.2 ⟨hpos, by omega⟩, fun j _ hlt => ?_⟩
  rw [Bool.not_eq_true', ← Bool.not_eq_true, slotIsDisabled_iff]
  rintro ⟨d', hd', hdisabled'⟩
  exact hlowest j d' hlt hd' hdisabled'

/-- Enable Slot finds nothing where no slot is Disabled (R322). -/
theorem slotToEnable_eq_none {s : State} (h : ∀ j d', s.slotAt j = some d' → d'.ctx.state ≠ .disabled) :
    s.slotToEnable = none := by
  rw [State.slotToEnable, List.find?_eq_none]
  intro j _ hj
  obtain ⟨d', hd', hdisabled⟩ := (slotIsDisabled_iff s j).1 hj
  exact h j d' hd' hdisabled

/-- The Slot ID of a completion has 8 bits (R117). -/
theorem completionTrb_slot_mod (a : Addr) (slot code extra : Nat) :
    completionTrb a (slot % 2 ^ 8) code extra = completionTrb a slot code extra := by
  simp only [completionTrb, w32, Trb.mk.injEq, true_and]
  apply BitVec.eq_of_toNat_eq
  simp only [BitVec.toNat_ofNat]
  omega

/-- A command completes for the low 8 bits of its slot number (R117). -/
theorem afterCommand_slot_mod (s s1 : State) (slot code extra : Nat) :
    afterCommand s s1 (slot % 2 ^ 8) code extra = afterCommand s s1 slot code extra := by
  rw [afterCommand, completionTrb_slot_mod, afterCommand]

/-- Enable Slot makes the slot it finds Default (R322). -/
theorem enableSlot_of_found {s : State} {sid : Nat} {d : DeviceSlot} (hfound : s.slotToEnable = some sid)
    (hd : s.slotAt sid = some d) :
    enableSlot s = (s.setSlot sid (some (d.setState .default)), ⟨BitVec.ofNat 8 sid, ccSuccess, 0⟩) := by
  simp only [enableSlot, hfound, hd]

/-- Settles O26: by whether a slot is still Disabled. -/
theorem enableSlotRule : Obligations.EnableSlotRule := by
  intro s t hu
  have hexec : exec (.enableSlot t) s = _ := runTrb_afterCommand s enableSlot transferTrbError hu
  rw [hexec]
  constructor
  · intro sid d hd hdisabled hlowest
    have hfound : (pastCommand s).slotToEnable = some sid := slotToEnable_eq_some hd hdisabled hlowest
    rw [enableSlot_of_found hfound hd, BitVec.toNat_ofNat, afterCommand_slot_mod]
    rfl
  · intro hnone
    have hfound : (pastCommand s).slotToEnable = none := slotToEnable_eq_none hnone
    simp only [enableSlot, hfound]
    rfl

/-! ### Commands of a present slot -/

/-- A command of a present slot has the effect of its meaning on that slot, and completes with its answer (R321). -/
theorem runTrb_slotCommand (s : State) (t : Trb) (d : DeviceSlot)
    (handle : Nat → DeviceSlot → State → State × BitVec 8 × BitVec 24)
    (g : Nat → Nat → DeviceSlot → State → State × XferResult) (hu : s.unit = .command)
    (hd : s.slotAt (t.control.toNat / 2 ^ 24) = some d) :
    s.runTrb (slotCommand t handle) g
      = .next (afterCommand s (handle (t.control.toNat / 2 ^ 24) d (pastCommand s)).1 (t.control.toNat / 2 ^ 24)
          (handle (t.control.toNat / 2 ^ 24) d (pastCommand s)).2.1.toNat
          (handle (t.control.toNat / 2 ^ 24) d (pastCommand s)).2.2.toNat) := by
  simp only [runTrb_afterCommand s _ _ hu, slotCommand, slotId_toNat, pastCommand_slotAt, hd]

/-- An allocation answers the lowest free address (R406). -/
theorem allocateAddress_eq_some {s : State} {a : Nat} (hpos : 1 ≤ a) (hmax : a ≤ s.cfg.numAddr)
    (hfree : s.addrUsed.getD a true = false) (hlowest : ∀ b, 1 ≤ b → b < a → s.addrUsed.getD b true = true) :
    s.allocateAddress = some (a, { s with addrUsed := s.addrUsed.set a true }) := by
  have hfound : s.freeAddr? = some a := by
    rw [State.freeAddr?, List.find?_range'_eq_some]
    refine ⟨by rw [hfree]; rfl, List.mem_range'_1.2 ⟨hpos, by omega⟩, fun b hb hlt => ?_⟩
    rw [hlowest b hb hlt]
    rfl
  rw [State.allocateAddress, hfound, Option.map_some]

/-- An allocation answers None where no address is free (R406). -/
theorem allocateAddress_eq_none {s : State} (h : ∀ b, 1 ≤ b → b ≤ s.cfg.numAddr → s.addrUsed.getD b true = true) :
    s.allocateAddress = none := by
  rw [State.allocateAddress, Option.map_eq_none_iff, State.freeAddr?, List.find?_eq_none]
  intro b hb
  obtain ⟨hpos, hmax⟩ := List.mem_range'_1.1 hb
  rw [h b hpos (by omega)]
  exact Bool.false_ne_true

/-- Settles O28: by the slot's state, then by whether an address is free. -/
theorem addressDeviceRule : Obligations.AddressDeviceRule := by
  intro s t d hu hd sid
  have hexec : exec (.addressDevice t) s = _ := runTrb_slotCommand s t d addressDevice transferTrbError hu hd
  rw [hexec]
  refine ⟨fun hstate => ?_, fun hstate => ?_⟩
  · simp only [addressDevice, if_pos hstate]
    rfl
  · have hnew : ¬ (d.ctx.state = .addressed ∨ d.ctx.state = .configured) := by
      rcases hstate with h | h <;> simp [h]
    refine ⟨fun a hpos hmax hsmall hfree hlowest => ?_, fun hused => ?_⟩
    · have hall := allocateAddress_eq_some (s := pastCommand s) hpos hmax hfree hlowest
      have hextra : (BitVec.ofNat 24 a).toNat = a := Nat.mod_eq_of_lt hsmall
      simp only [addressDevice, if_neg hnew, hall, hextra]
      rfl
    · have hall := allocateAddress_eq_none (s := pastCommand s) hused
      simp only [addressDevice, if_neg hnew, hall]
      rfl

/-- Settles O30: by the endpoint id, then by the endpoint's state. -/
theorem resetAndStopEndpointRules : Obligations.ResetAndStopEndpointRules := by
  intro s t d hu hd sid e becomes
  have hreset : exec (.resetEndpoint t) s = .next (if s.epOk e then
      afterCommand s (becomes (d.epState e).afterReset) sid 1 0 else afterCommand s (pastCommand s) sid 5 0) :=
    runTrb_endpointCommand s t d resetEndpoint transferTrbError hu hd
  have hstop : exec (.stopEndpoint t) s = .next (if s.epOk e then
      afterCommand s (becomes (d.epState e).afterStop) sid 1 0 else afterCommand s (pastCommand s) sid 5 0) :=
    runTrb_endpointCommand s t d stopEndpoint transferTrbError hu hd
  rw [hreset, hstop, ← epOk_iff]
  refine ⟨fun he => by simp only [if_neg he, and_self], fun he => ?_⟩
  simp only [if_pos he]
  refine ⟨?_, ?_, ?_, ?_, ?_⟩ <;> (intro hstate; rw [hstate]; exact ⟨rfl, rfl⟩)

/-! ### The endpoints of a Device Slot -/

/-- An element of a list changed by index, where the default is what the change makes of it. -/
theorem getD_mapIdx_fixed {α : Type} (l : List α) (f : Nat → α → α) (e : Nat) (x : α) (h : f e x = x) :
    (l.mapIdx f).getD e x = f e (l.getD e x) := by
  simp only [List.getD_eq_getElem?_getD, List.getElem?_mapIdx]
  cases l[e]? with
  | none => exact h.symm
  | some y => rfl

/-- An element of a list changed by index, inside the list. -/
theorem getD_mapIdx_of_lt {α : Type} (l : List α) (f : Nat → α → α) {e : Nat} (x : α) (h : e < l.length) :
    (l.mapIdx f).getD e x = f e (l.getD e x) := by
  simp [List.getD_eq_getElem?_getD, h]

section
variable (d : DeviceSlot)

/-- The endpoint contexts after the endpoints from lo on were disabled (R324, R342). -/
theorem disableFrom_eps_getD (lo e : Nat) :
    (d.disableFrom lo).eps.getD e EpContext.fresh
      = if lo ≤ e then { d.eps.getD e EpContext.fresh with state := .disabled } else d.eps.getD e EpContext.fresh :=
  getD_mapIdx_fixed d.eps _ e _ (ite_id _)

/-- The endpoint types stay and the endpoints from lo on are Disabled (R324, R342). -/
theorem disableFrom_endpoint (lo e : Nat) :
    ((d.disableFrom lo).eps.getD e EpContext.fresh).type = (d.eps.getD e EpContext.fresh).type
      ∧ (d.disableFrom lo).epState e = if lo ≤ e then .disabled else d.epState e := by
  rw [DeviceSlot.epState, disableFrom_eps_getD]
  split
  · exact ⟨rfl, rfl⟩
  · exact ⟨rfl, rfl⟩

/-- The rings of the endpoints from lo on are uninitialised (R324, R342). -/
theorem disableFrom_ring (lo e : Nat) :
    (d.disableFrom lo).ring e = if lo ≤ e then { d.ring e with init := false } else d.ring e :=
  getD_mapIdx_fixed d.rings _ e _ (ite_id _)

/-- Disabling endpoints keeps how many contexts and rings there are. -/
theorem disableFrom_lengths (lo : Nat) :
    (d.disableFrom lo).eps.length = d.eps.length ∧ (d.disableFrom lo).rings.length = d.rings.length :=
  ⟨List.length_mapIdx, List.length_mapIdx⟩

/-- The endpoint contexts after the Disabled endpoints from 2 on were enabled (R329). -/
theorem enableEndpoints_eps_getD {e : Nat} (h : e < d.eps.length) :
    d.enableEndpoints.eps.getD e EpContext.fresh
      = if 2 ≤ e ∧ d.epState e = .disabled then { d.eps.getD e EpContext.fresh with state := .running }
        else d.eps.getD e EpContext.fresh :=
  getD_mapIdx_of_lt d.eps _ _ h

/-- The endpoint types stay and the Disabled endpoints from 2 on are Running (R329). -/
theorem enableEndpoints_endpoint {e : Nat} (h : e < d.eps.length) :
    (d.enableEndpoints.eps.getD e EpContext.fresh).type = (d.eps.getD e EpContext.fresh).type
      ∧ d.enableEndpoints.epState e = if 2 ≤ e ∧ d.epState e = .disabled then .running else d.epState e := by
  rw [DeviceSlot.epState, enableEndpoints_eps_getD d h]
  split
  · exact ⟨rfl, rfl⟩
  · exact ⟨rfl, rfl⟩

end

/-- The Device Slot Disable Slot and Reset Device make: in state st, without an address and a pending control response,
its endpoints from lo on disabled (R324, R342). -/
def DeviceSlot.cleared (d : DeviceSlot) (st : SlotState) (lo : Nat) : DeviceSlot :=
  { ((d.setAddress 0).setState st).disableFrom lo with ctlResp := [] }

/-- Each field of that Device Slot (R324, R342). -/
theorem cleared_fields (d : DeviceSlot) (st : SlotState) (lo : Nat) :
    (d.cleared st lo).ctx = ⟨d.ctx.routeString, 0, st, d.ctx.speed⟩ ∧ (d.cleared st lo).ctlResp = []
      ∧ (d.cleared st lo).port = d.port ∧ (d.cleared st lo).dev = d.dev ∧ (d.cleared st lo).serial = d.serial
      ∧ (d.cleared st lo).draining = d.draining
      ∧ (d.cleared st lo).eps.length = d.eps.length ∧ (d.cleared st lo).rings.length = d.rings.length
      ∧ (∀ e, ((d.cleared st lo).eps.getD e EpContext.fresh).type = (d.eps.getD e EpContext.fresh).type
        ∧ (d.cleared st lo).epState e = if lo ≤ e then .disabled else d.epState e)
      ∧ (∀ e, (d.cleared st lo).ring e = if lo ≤ e then { d.ring e with init := false } else d.ring e) := by
  obtain ⟨heps, hrings⟩ := disableFrom_lengths ((d.setAddress 0).setState st) lo
  exact ⟨rfl, rfl, rfl, rfl, rfl, rfl, heps, hrings, disableFrom_endpoint _ lo, disableFrom_ring _ lo⟩

/-- Settles O27: by whether the slot is Disabled. -/
theorem disableSlotRule : Obligations.DisableSlotRule := by
  intro s t d hu hd sid
  have hexec : exec (.disableSlot t) s = _ := runTrb_slotCommand s t d disableSlot transferTrbError hu hd
  rw [hexec]
  refine ⟨fun hdis => ?_, fun hdis => ⟨d.cleared .disabled 1, ?_, cleared_fields d .disabled 1⟩⟩
  · simp only [disableSlot, if_pos hdis]
    rfl
  · simp only [disableSlot, if_neg hdis, freeSlotAddress_eq]
    rfl

/-- Settles O32: by whether the slot is Disabled. -/
theorem resetDeviceRule : Obligations.ResetDeviceRule := by
  intro s t d hu hd sid
  have hexec : exec (.resetDevice t) s = _ := runTrb_slotCommand s t d resetDevice transferTrbError hu hd
  rw [hexec]
  refine ⟨fun hdis => ?_, fun hdis => ⟨d.cleared .default 2, ?_, cleared_fields d .default 2⟩⟩
  · simp only [resetDevice, if_pos hdis]
    rfl
  · simp only [resetDevice, if_neg hdis, freeSlotAddress_eq]
    rfl

/-- The Device Slot Configure Endpoint makes (R329). -/
def DeviceSlot.configured (d : DeviceSlot) : DeviceSlot :=
  if d.ctx.state = .addressed ∨ d.ctx.state = .configured then (d.setState .configured).enableEndpoints else d

/-- Configure Endpoint puts that Device Slot in the slot's entry (R329). -/
theorem configureEndpoint_eq (sid : Nat) (d : DeviceSlot) (s : State) :
    configureEndpoint sid d s = (s.setSlot sid (some d.configured), ccSuccess, 0) := by
  unfold configureEndpoint DeviceSlot.configured
  by_cases ha : d.ctx.state = .addressed
  · simp [ha, DeviceSlot.setState]
  · by_cases hc : d.ctx.state = .configured
    · simp [hc, setState_self hc]
    · simp [ha, hc]

/-- Settles O29: No Op and Evaluate Context have no effect; Configure Endpoint by the slot's state. -/
theorem configureEvaluateAndNoOp : Obligations.ConfigureEvaluateAndNoOp := by
  intro s t hu
  refine ⟨runTrb_afterCommand s commandNoOp transferTrbError hu, ?_⟩
  intro d hd sid
  have hconfigure : exec (.configureEndpoint t) s = _ :=
    runTrb_slotCommand s t d configureEndpoint transferTrbError hu hd
  refine ⟨runTrb_slotCommand s t d evaluateContext transferTrbError hu hd, d.configured, ?_, fun hst => ?_,
    fun hst => ?_⟩
  · rw [hconfigure, configureEndpoint_eq]
    rfl
  · rw [DeviceSlot.configured, if_neg]
    rcases hst with h | h <;> simp [h]
  · rw [DeviceSlot.configured, if_pos hst]
    exact ⟨rfl, rfl, rfl, rfl, rfl, rfl, rfl, List.length_mapIdx, fun e he => enableEndpoints_endpoint _ he⟩

end Sys2Proof.Machine
end

section
/-! PROOFS. The endpoint state machine over every instruction (R332, R347, R392, R463). -/

namespace Sys2Proof.Machine

open Sys2Proof.Claims

/-! ### The moves of one endpoint -/

/-- The moves an instruction can make endpoint e of the Device Slot in entry sid: from its state before to its state
after (R332, R347, R392, R463). The unit is that before the instruction. -/
inductive EndpointMove (u : Consumer) (sid e : Nat) : Instr → EpState → EpState → Prop where
  | kept (i : Instr) (st : EpState) : EndpointMove u sid e i st st
  | address {x : Trb} {st : EpState} (he : e = 1) : EndpointMove u sid e (.addressDevice x) st .running
  | configure {x : Trb} (he : 2 ≤ e) : EndpointMove u sid e (.configureEndpoint x) .disabled .running
  | resetEndpoint {x : Trb} (st : EpState) : EndpointMove u sid e (.resetEndpoint x) st st.afterReset
  | stopEndpoint {x : Trb} (st : EpState) : EndpointMove u sid e (.stopEndpoint x) st st.afterStop
  | failed {i : Instr} {st : EpState} (hi : ∃ x, i = .normal x ∨ i = .setupStage x) (hu : u = .transfer sid e) :
      EndpointMove u sid e i st .error
  | disableSlot {x : Trb} {st : EpState} (he : 1 ≤ e) : EndpointMove u sid e (.disableSlot x) st .disabled
  | resetDevice {x : Trb} {st : EpState} (he : 2 ≤ e) : EndpointMove u sid e (.resetDevice x) st .disabled
  | controllerReset {i : Instr} {st : EpState} (hr : isReset i = true) : EndpointMove u sid e i st .disabled

/-- Changing an endpoint's state changes that endpoint at most (R48). -/
theorem setEpState_epState_cases (d : DeviceSlot) (k e : Nat) (st : EpState) :
    (d.setEpState k st).epState e = d.epState e ∨ k = e ∧ (d.setEpState k st).epState e = st := by
  rcases getD_modify_cases d.eps k e (fun c => { c with state := st }) EpContext.fresh with h | ⟨hk, h⟩
  · exact .inl (congrArg EpContext.state h)
  · exact .inr ⟨hk, congrArg EpContext.state h⟩

/-- Enabling endpoints makes Disabled ones from 2 on Running, or leaves them (R329). -/
theorem enableEndpoints_epState_cases (d : DeviceSlot) (e : Nat) :
    d.enableEndpoints.epState e = d.epState e
      ∨ 2 ≤ e ∧ d.epState e = .disabled ∧ d.enableEndpoints.epState e = .running := by
  by_cases hlt : e < d.eps.length
  · rw [(enableEndpoints_endpoint d hlt).2]
    split
    · next h => exact .inr ⟨h.1, h.2, rfl⟩
    · exact .inl rfl
  · have hlen : d.enableEndpoints.eps.length = d.eps.length := List.length_mapIdx
    rw [DeviceSlot.epState, DeviceSlot.epState, List.getD_eq_default _ _ (by omega),
      List.getD_eq_default _ _ (by omega)]
    exact .inl rfl

/-- A controller reset leaves every endpoint Disabled (R463). -/
theorem hcrst_epState (d : DeviceSlot) (e : Nat) : d.hcrst.epState e = .disabled := by
  simp only [DeviceSlot.epState, DeviceSlot.hcrst, List.getD_eq_getElem?_getD, List.getElem?_map]
  cases d.eps[e]? <;> rfl

/-- What a TRB, XFER or XINIT does to a slot moves each of its endpoints as the state machine has it (R332, R392). -/
theorem SlotChange.endpointMove {c : Config} {u : Consumer} {used used' : List Bool} {sid : Nat} {d d' : DeviceSlot}
    {i : Instr} (h : SlotChange c u used sid d i d' used') (e : Nat) :
    EndpointMove u sid e i (d.epState e) (d'.epState e) := by
  have moved {st st' : EpState} (hst : st' = st) (hm : EndpointMove u sid e i (d.epState e) st) :
      EndpointMove u sid e i (d.epState e) st' := hst ▸ hm
  cases h with
  | disable =>
    have hd' := (disableFrom_endpoint ((d.setAddress 0).setState .disabled) 1 e).2
    by_cases he : 1 ≤ e
    · exact moved (hd'.trans (if_pos he)) (.disableSlot he)
    · exact moved (hd'.trans (if_neg he)) (.kept _ _)
  | @address _ a =>
    rcases setEpState_epState_cases ((d.setAddress a).setState .addressed) 1 e .running with hd' | ⟨rfl, hd'⟩
    · exact moved hd' (.kept _ _)
    · exact moved hd' (.address rfl)
  | configure =>
    rcases enableEndpoints_epState_cases (d.setState .configured) e with hd' | ⟨he, hd, hd'⟩
    · exact moved hd' (.kept _ _)
    · have hd : d.epState e = .disabled := hd
      rw [hd, hd']
      exact .configure he
  | @resetEndpoint _ k =>
    rcases setEpState_epState_cases d k e (d.epState k).afterReset with hd' | ⟨rfl, hd'⟩
    · exact moved hd' (.kept _ _)
    · exact moved hd' (.resetEndpoint _)
  | @stopEndpoint _ k =>
    rcases setEpState_epState_cases d k e (d.epState k).afterStop with hd' | ⟨rfl, hd'⟩
    · exact moved hd' (.kept _ _)
    · exact moved hd' (.stopEndpoint _)
  | resetDevice =>
    have hd' := (disableFrom_endpoint ((d.setAddress 0).setState .default) 2 e).2
    by_cases he : 2 ≤ e
    · exact moved (hd'.trans (if_pos he)) (.resetDevice he)
    · exact moved (hd'.trans (if_neg he)) (.kept _ _)
  | @transfer _ k _ _ hu h =>
    cases h with
    | failed hi =>
      rcases setEpState_epState_cases (pastTransfer d k) k e .error with hd' | ⟨rfl, hd'⟩
      · exact moved hd' (.kept _ _)
      · exact moved hd' (.failed hi hu)
    | consumed | answered => exact .kept _ _
  | enable | setDequeue | xfer | xinit => exact .kept _ _

/-- Every instruction moves an endpoint of a slot that stays as the state machine has it (R332, R347, R392, R463). -/
theorem exec_endpointMove {i : Instr} {s t : State} {sid : Nat} {d d' : DeviceSlot} (h : exec i s = .next t)
    (hd : s.entry sid = some d) (hd' : t.entry sid = some d') (e : Nat) :
    EndpointMove s.unit sid e i (d.epState e) (d'.epState e) := by
  cases hr : isReset i with
  | true =>
    obtain ⟨r, rfl⟩ := exec_reset hr h
    obtain rfl : d.hcrst = d' := by simpa [hd] using (controllerReset_entry s sid).symm.trans hd'
    exact hcrst_epState d e ▸ .controllerReset hr
  | false =>
    rcases (exec_effect hr h).entry hd hd' with rfl | ⟨used, hc⟩ | ⟨v, -, -, rfl⟩
    · exact .kept _ _
    · exact hc.endpointMove e
    · exact .kept _ _

/-- Settles O52: by the move the instruction makes; Reset Endpoint and Stop Endpoint by the state they find. -/
theorem endpointStateMachine : Obligations.EndpointStateMachine := by
  intro i s t sid e d d' h hd hd'
  have hmove := exec_endpointMove h hd hd' e
  generalize d.epState e = a, d'.epState e = b at hmove ⊢
  cases hmove with
  | kept => exact .inl rfl
  | address he => exact .inr (.inl ⟨⟨_, rfl⟩, he, rfl⟩)
  | configure he => exact .inr (.inr (.inl ⟨⟨_, rfl⟩, he, rfl, rfl⟩))
  | resetEndpoint =>
    cases a with
    | disabled | stopped => exact .inl rfl
    | running => exact .inr (.inr (.inr (.inl ⟨⟨_, rfl⟩, rfl, rfl⟩)))
    | halted => exact .inr (.inr (.inr (.inr (.inl ⟨⟨_, rfl⟩, .inl rfl, rfl⟩))))
    | error => exact .inr (.inr (.inr (.inr (.inl ⟨⟨_, rfl⟩, .inr rfl, rfl⟩))))
  | stopEndpoint =>
    cases a with
    | disabled | halted | error => exact .inl rfl
    | running => exact .inr (.inr (.inr (.inr (.inr (.inl ⟨⟨_, rfl⟩, rfl, rfl⟩)))))
    | stopped => exact .inr (.inr (.inr (.inr (.inr (.inr (.inl ⟨⟨_, rfl⟩, rfl, rfl⟩))))))
  | failed hi hu => exact .inr (.inr (.inr (.inr (.inr (.inr (.inr (.inl ⟨hi, hu, rfl⟩)))))))
  | disableSlot he => exact .inr (.inr (.inr (.inr (.inr (.inr (.inr (.inr ⟨.inl ⟨⟨_, rfl⟩, he⟩, rfl⟩)))))))
  | resetDevice he =>
    exact .inr (.inr (.inr (.inr (.inr (.inr (.inr (.inr ⟨.inr (.inl ⟨⟨_, rfl⟩, he⟩), rfl⟩)))))))
  | controllerReset hr => exact .inr (.inr (.inr (.inr (.inr (.inr (.inr (.inr ⟨.inr (.inr hr), rfl⟩)))))))

end Sys2Proof.Machine
end

section
/-! PROOFS. How drains move and end: a command drain empties its ring within one pass over it (R203, R204, R320), and a
transfer drain consumes a TRB or ends (R334, R374, R377, R380). -/

namespace Sys2Proof.Machine

open Sys2Proof.Claims

/-! ### One pass over a ring -/

/-- A cursor and its cycle state are some position counted without wrapping (R200). -/
theorem exists_position {size deq : Nat} (h : deq < size) (ccs : Bool) : ∃ c, deq = c % size ∧ ccs = lap size c := by
  have hpos : 0 < size := by omega
  have hfirst : lap size deq = false := by rw [lap, Nat.div_eq_of_lt h]; rfl
  cases ccs with
  | false => exact ⟨deq, (Nat.mod_eq_of_lt h).symm, hfirst.symm⟩
  | true =>
    refine ⟨deq + size, ?_, ?_⟩
    · rw [Nat.add_mod_right, Nat.mod_eq_of_lt h]
    · rw [lap_add_size hpos, hfirst, Bool.not_false]

/-- The consumer at position c, k TRBs later (R204). -/
theorem advance_iterate_at {r : Ring} {c : Nat} (hpos : 0 < r.size) (hdeq : r.deq = c % r.size)
    (hccs : r.ccs = lap r.size c) (k : Nat) :
    Ring.advance^[k] r = { r with deq := (c + k) % r.size, ccs := lap r.size (c + k) } := by
  induction k with
  | zero => rw [Nat.add_zero, ← hdeq, ← hccs]; rfl
  | succ k ih => rw [Function.iterate_succ_apply', ih]; exact advance_at hpos rfl rfl

/-- One pass over the ring brings the cursor back with the other cycle state (R204). -/
theorem advance_iterate_size {r : Ring} (h : r.deq < r.size) : Ring.advance^[r.size] r = { r with ccs := !r.ccs } := by
  obtain ⟨c, hdeq, hccs⟩ := exists_position h r.ccs
  have hpos : 0 < r.size := by omega
  rw [advance_iterate_at hpos hdeq hccs, Nat.add_mod_right, lap_add_size hpos, ← hdeq, ← hccs]

/-- A ring that is not empty is after one pass: its first TRB has the cycle bit of the pass before (R200, R204). -/
theorem empty_after_pass {r : Ring} (hok : r.ok) (hne : r.empty = false) : (Ring.advance^[r.size] r).empty = true := by
  have hvalid : r.valid r.deq = true := by simpa [Ring.empty] using hne
  obtain ⟨hinit, hcycle⟩ := (Bool.and_eq_true _ _).mp hvalid
  obtain ⟨-, -, -, -, -, -, hdeq⟩ := hok hinit
  rw [advance_iterate_size hdeq]
  have hcycle : rawCycle (r.at r.deq) = r.ccs := beq_iff_eq.1 hcycle
  show (!(r.init && (rawCycle (r.at r.deq) == !r.ccs))) = true
  rw [hcycle, hinit]
  cases r.ccs <;> rfl

/-! ### The end of a command drain -/

/-- A TRB answers a next state, on a transfer ring where its slot is there (R420; log 17). -/
theorem exec_trb_next {s : State} {i : Instr} (ht : isTrb i = true)
    (hslot : ∀ sid e, s.unit = .transfer sid e → ∃ d, s.slotAt sid = some d) : ∃ t, exec i s = .next t := by
  obtain ⟨f, g, hm⟩ := exec_trb ht
  rw [hm.runs s]
  rcases unit_cases s with hu | ⟨sid, e, hu⟩
  · exact ⟨_, runTrb_afterCommand s f g hu⟩
  · obtain ⟨d, hd⟩ := hslot sid e hu
    obtain ⟨es, b, h⟩ := runTrb_transfer s f g sid e d hu hd
    exact ⟨_, h⟩

/-- A command drain that finds a TRB answers a next state (R320, R420). -/
theorem step_cmdDrain_next {s : State} {p : Bool} {h : Option HighHalf} (hl : s.locked = some ⟨.cmdDrain p, h⟩)
    (hne : s.cmdRing.empty = false) : ∃ t, step s = .next t := by
  rw [step_of_fetch (fetch_locked hl (nextTrb_cmdDrain p hne))]
  obtain ⟨t, ht⟩ := exec_trb_next (s := { s with unit := .command }) (isTrb_instrOfRaw (s.cmdRing.at s.cmdRing.deq))
    nofun
  exact ⟨_, congrArg (mapNext _) ht⟩

/-- A run goes on from the state its first step answers. -/
theorem run_succ (M : Host.Core) {s t : M.State} (h : M.step s = .next t) (k : Nat) : M.run (k + 1) s = M.run k t := by
  rw [Host.Core.run, h]

/-- A raise leaves the command ring (R431). -/
theorem raisedIf_cmdRing (p : Bool) (s : State) : (raisedIf p s).cmdRing = s.cmdRing := by cases p <;> rfl

/-- A command drain ends within one step more than the TRBs after which its ring is empty (R320; log 4). -/
theorem cmdDrain_ends_within (j : Nat) (s : State) (p : Bool) (h : Option HighHalf)
    (hl : s.locked = some ⟨.cmdDrain p, h⟩) (hj : (Ring.advance^[j] s.cmdRing).empty = true) :
    ∃ k ≤ j + 1, ∃ t, Host.Core.run core k s = .next t ∧ t.locked = none ∧ t.cmdRing.empty = true := by
  induction j generalizing s p with
  | zero =>
    have hend := (commandDrainEnds s p h hl).1 hj
    exact ⟨1, le_rfl, _, run_succ core hend 0, rfl, (congrArg Ring.empty (raisedIf_cmdRing p s)).trans hj⟩
  | succ j ih =>
    cases hempty : s.cmdRing.empty with
    | true =>
      have hend := (commandDrainEnds s p h hl).1 hempty
      exact ⟨1, by omega, _, run_succ core hend 0, rfl, (congrArg Ring.empty (raisedIf_cmdRing p s)).trans hempty⟩
    | false =>
      obtain ⟨t1, hstep⟩ := step_cmdDrain_next hl hempty
      obtain ⟨-, -, hring, hlocked⟩ := (commandDrainEnds s p h hl).2 hempty t1 hstep
      obtain ⟨k, hk, t, hrun, hend⟩ := ih t1 _ hlocked (by rw [hring]; exact hj)
      exact ⟨k + 1, by omega, t, (run_succ core hstep k).trans hrun, hend⟩

/-- Settles O47: the ring is empty at once, or after one pass. -/
theorem commandDrainTerminates : Obligations.CommandDrainTerminates := by
  intro s p h hok hl
  cases hempty : s.cmdRing.empty with
  | true =>
    obtain ⟨k, hk, hrun⟩ := cmdDrain_ends_within 0 s p h hl hempty
    exact ⟨k, by omega, hrun⟩
  | false => exact cmdDrain_ends_within s.cmdRing.size s p h hl (empty_after_pass hok hempty)

/-! ### The TRB of a transfer drain -/

/-- Replacing a present slot's entry makes the new Device Slot the one there. -/
theorem slotAt_set {s t : State} {sid : Nat} {d d' : DeviceSlot} (hd : s.slotAt sid = some d) (hcfg : t.cfg = s.cfg)
    (ht : t.slotTab = s.slotTab.set sid (some d')) : t.slotAt sid = some d' := by
  obtain ⟨hpos, hmax, hget⟩ := (slotAt_spec s sid d).1 hd
  obtain ⟨hlt, -⟩ := List.getElem?_eq_some_iff.1 hget
  rw [slotAt_spec, hcfg, ht, List.getElem?_set_self hlt]
  exact ⟨hpos, hmax, rfl⟩

/-- An endpoint whose ring is not empty has a ring (R42). -/
theorem ring_lt_of_not_empty {d : DeviceSlot} {e : Nat} (h : (d.ring e).empty = false) : e < d.rings.length := by
  by_contra hn
  rw [DeviceSlot.ring, List.getD_eq_default _ _ (Nat.le_of_not_lt hn)] at h
  cases h

/-- A transfer TRB's own effect keeps its slot's rings and draining flags (R52, R384). -/
theorem TransferChange.rings {e : Nat} {d d' : DeviceSlot} {i : Instr} (h : TransferChange e d i d') :
    d'.rings = d.rings ∧ d'.draining = d.draining := by
  cases h <;> exact ⟨rfl, rfl⟩

/-- What a transfer TRB leaves: its own change of its Device Slot, memory, draws, calls and the event ring (R374,
R384). -/
theorem exec_transferTrb {s t : State} {i : Instr} {sid e : Nat} {d : DeviceSlot} (ht : isTrb i = true)
    (hu : s.unit = .transfer sid e) (hd : s.slotAt sid = some d) (h : exec i s = .next t) :
    ∃ d' m dr calls es r, TransferChange e (pastTransfer d e) i d'
      ∧ t = { s with
          slotTab := s.slotTab.set sid (some d')
          mem := m
          draws := dr
          calls := calls
          evRings := es
          result := r } := by
  obtain ⟨f, g, hm⟩ := exec_trb ht
  rw [hm.runs s] at h
  obtain ⟨d1, es, r, hd1, -, rfl⟩ := runTrb_transfer_posted hu h
  cases hd.symm.trans hd1
  have hout := hm.transfer sid e (pastTransfer d e) (s.setSlot sid (some (pastTransfer d e)))
  generalize (g sid e (pastTransfer d e) (s.setSlot sid (some (pastTransfer d e)))).1 = s1 at hout ⊢
  cases hout with
  | @unchanged m _ dr calls => exact ⟨_, m, dr, calls, es, r, .consumed i, rfl⟩
  | @slot d' m hc _ dr calls =>
    refine ⟨d', m, dr, calls, es, r, hc, ?_⟩
    simp only [State.setSlot, List.set_set]

/-- What a step of a transfer drain keeps and moves: no interrupt is raised, and its Device Slot is there as before with
the ring's cursor past one TRB (R374, R380). -/
def Consumed (s t : State) (sid e : Nat) (d : DeviceSlot) : Prop :=
  t.intrs = s.intrs ∧ t.usbsts = s.usbsts
    ∧ ∃ d', t.slotAt sid = some d' ∧ d'.serial = d.serial ∧ d'.ring e = (d.ring e).advance ∧ d'.draining = d.draining

/-- The TRB of a transfer drain is consumed, and leaves the inbox and the accesses in progress (R374, R380). -/
theorem exec_drainTrb {s : State} {sid e : Nat} {d : DeviceSlot} (hu : s.unit = .transfer sid e)
    (hd : s.slotAt sid = some d) (hne : (d.ring e).empty = false) (b : Raw) :
    ∃ t, exec (instrOfRaw b) s = .next t ∧ Consumed s t sid e d
      ∧ t.inbox = s.inbox ∧ t.locked = s.locked ∧ t.tasks = s.tasks := by
  have ht := isTrb_instrOfRaw b
  obtain ⟨t, hexec⟩ := exec_trb_next ht (fun sid' e' hu' => by cases hu.symm.trans hu'; exact ⟨d, hd⟩)
  obtain ⟨d', m, dr, calls, es, r, hc, rfl⟩ := exec_transferTrb ht hu hd hexec
  obtain ⟨hrings, hdraining⟩ := hc.rings
  obtain ⟨-, -, hserial, -⟩ := hc.sameDevice
  refine ⟨_, hexec, ⟨rfl, rfl, d', slotAt_set hd rfl rfl, hserial, ?_, hdraining⟩, rfl, rfl, rfl⟩
  rw [DeviceSlot.ring, hrings]
  exact getD_set_self d.rings _ _ (ring_lt_of_not_empty hne)

/-! ### The end of a transfer drain -/

section
variable {s : State} {sid serial e : Nat} {p : Bool} {h : Option HighHalf}

/-- A transfer drain has no next TRB where its slot is gone, its endpoint is not Running or its ring is empty (R374,
R377, R380). -/
theorem nextTrb_xferDrain_none (p : Bool)
    (hend : ∀ d, s.slotAt sid = some d → d.serial = serial → d.epState e ≠ .running ∨ (d.ring e).empty = true) :
    nextTrb s (.xferDrain sid serial e p) = none := by
  unfold nextTrb
  dsimp only
  split
  · rfl
  · next d hd =>
    refine if_neg ?_
    rintro ⟨hserial, hrunning, hne⟩
    rcases hend d hd hserial with hstate | hempty
    · exact hstate hrunning
    · exact Bool.false_ne_true (hne.symm.trans hempty)

/-- A split drain without a next TRB fetches nothing at its turn (R380). -/
theorem fetchTask_xferDrain_none {k : Nat} (hk : s.tasks[k]? = some ⟨.xferDrain sid serial e p, h⟩)
    (hn : nextTrb s (.xferDrain sid serial e p) = none) : fetchTask s k = none := by
  unfold fetchTask
  rw [hk]
  simp only [hn]

/-- An access that has its turn and fetches nothing ends (R380; log 5). -/
theorem step_turn_end {k : Nat} {rest : List Input} (hturn : hasTurn s k rest)
    (hf : fetchTask { s with inbox := rest } k = none) : step s = .next (endTask { s with inbox := rest } k) := by
  rw [step_of_no_fetch ((fetch_of_hasTurn hturn).trans hf)]
  obtain ⟨hl, hi | ⟨hi, rfl, rfl⟩⟩ := hturn
  · rw [quiet, hl, hi]
  · have hs : ({ s with inbox := [] } : State) = s := by rw [← hi]
    rw [hs, quiet, hl, hi]

/-- The end of an access in progress: its draining flag, then what ends every access (R380). -/
theorem endTask_eq {k : Nat} {x : Task} (hk : s.tasks[k]? = some x) :
    endTask s k = endAccess (endDraining { s with tasks := s.tasks.eraseIdx k } x.work) x := by
  rw [endTask, hk]

/-- The draining flag of a drain's Device Slot is cleared where it is still there (R380; log 6). -/
theorem endDraining_present {d : DeviceSlot} (p : Bool) (hd : s.slotAt sid = some d) (hserial : d.serial = serial) :
    endDraining s (.xferDrain sid serial e p) = s.setSlot sid (some (d.setDraining e false)) := by
  simp only [endDraining, hd, if_pos hserial]

/-- No draining flag is cleared where the drain's Device Slot is gone (R380; log 6). -/
theorem endDraining_gone (p : Bool) (hgone : ∀ d, s.slotAt sid = some d → d.serial ≠ serial) :
    endDraining s (.xferDrain sid serial e p) = s := by
  unfold endDraining
  dsimp only
  split
  · next d hd => exact if_neg (hgone d hd)
  · rfl

end

/-- Settles O46: a drain with a next TRB by the TRB's own execution; one without by what ends every access, a split
drain after its draining flag. -/
theorem splitDrainEnds : Obligations.SplitDrainEnds := by
  intro s sid serial e p h
  constructor
  · intro d hd hserial hrunning hne moved
    have hn := nextTrb_xferDrain p hd hserial hrunning hne
    subst hserial
    constructor
    · intro k rest hturn hk
      obtain ⟨t, hexec, ⟨hintrs, hsts, hslot⟩, hinbox, hlocked, htasks⟩ :=
        exec_drainTrb (s := { s with inbox := rest, unit := .transfer sid e }) rfl hd hne ((d.ring e).at (d.ring e).deq)
      have hfetch := (fetch_of_hasTurn hturn).trans (fetchTask_xferDrain (s := { s with inbox := rest }) hk hn)
      refine ⟨_, _, (step_of_fetch hfetch).trans (congrArg (mapNext _) hexec), ⟨rfl, hintrs, hsts, hslot⟩, ?_, hinbox,
        hlocked.trans hturn.1⟩
      exact congrArg (List.set · k _) htasks
    · intro hl
      obtain ⟨t, hexec, ⟨hintrs, hsts, hslot⟩, hinbox, -, htasks⟩ :=
        exec_drainTrb (s := { s with unit := .transfer sid e }) rfl hd hne ((d.ring e).at (d.ring e).deq)
      exact ⟨_, _, (step_of_fetch (fetch_locked hl hn)).trans (congrArg (mapNext _) hexec), ⟨rfl, hintrs, hsts, hslot⟩,
        rfl, htasks, hinbox⟩
  · intro hend
    have hn := nextTrb_xferDrain_none p hend
    constructor
    · intro k rest hturn hk ended
      have hstep := step_turn_end hturn (fetchTask_xferDrain_none (s := { s with inbox := rest }) hk hn)
      rw [hstep, endTask_eq (s := { s with inbox := rest }) hk, endAccess_eq]
      refine ⟨fun d hd hserial => ?_, fun hgone => ?_⟩
      · rw [endDraining_present (s := { s with inbox := rest, tasks := s.tasks.eraseIdx k }) p hd hserial]
        cases p <;> rfl
      · rw [endDraining_gone (s := { s with inbox := rest, tasks := s.tasks.eraseIdx k }) p hgone]
        cases p <;> rfl
    · intro hl
      rw [step_locked_end hl hn, endAccess_eq]
      cases p <;> rfl

end Sys2Proof.Machine
end

section
/-! PROOFS. The transfer TRBs on a transfer ring, each by the one execution of a transfer TRB (R374): what is answered
without an effect (R389, R391), and the effect of every other TRB for each answer of the device and of guest memory
(R385 to R392). -/

namespace Sys2Proof.Machine

open Sys2Proof.Claims

/-! ### A TRB on a present slot's transfer ring -/

/-- A TRB on the transfer ring of a present slot: the cursor moves, the TRB has its effect s1, and its Transfer Event
with the code and the residual it answers is posted (R374, R384). -/
theorem runTrb_transferTrb {s s1 : State} {sid e code residual : Nat} {d : DeviceSlot} {x : XferResult}
    {f : State → State × CmdResult} {g : Nat → Nat → DeviceSlot → State → State × XferResult}
    (hu : s.unit = .transfer sid e) (he : e < 32) (hd : s.slotAt sid = some d)
    (hg : g sid e (pastTransfer d e) (s.setSlot sid (some (pastTransfer d e))) = (s1, x))
    (hcode : x.code.toNat = code) (hresidual : x.residual.toNat = residual) :
    s.runTrb f g = .next (afterTransfer s1 d sid e code residual) := by
  obtain rfl := hcode
  obtain rfl := hresidual
  rw [pastTransfer] at hg
  simp only [State.runTrb, hu, hd, hg, createTransferEvent_eq _ _ _ _ he]
  rfl

/-- Of two changes of one slot in turn the second stays. -/
theorem setSlot_setSlot (s : State) (sid : Nat) (o o' : Option DeviceSlot) :
    (s.setSlot sid o).setSlot sid o' = s.setSlot sid o' := by
  simp only [State.setSlot, List.set_set]

/-- A TRB that a transfer ring does not execute is consumed with TRB Error (R389, R391). -/
theorem runTrb_transferTrbError {s : State} {sid e : Nat} {d : DeviceSlot} (f : State → State × CmdResult)
    (hu : s.unit = .transfer sid e) (he : e < 32) (hd : s.slotAt sid = some d) :
    s.runTrb f transferTrbError
      = .next (afterTransfer (s.setSlot sid (some (pastTransfer d e))) d sid e 5 0) :=
  runTrb_transferTrb hu he hd rfl rfl rfl

/-- On a transfer ring these TRBs are not executed (R389, R391). -/
theorem exec_notTransfer {mk : Trb → Instr} (h : mk ∈ notTransfers) (t : Trb) :
    ∃ f, ∀ s, exec (mk t) s = s.runTrb f transferTrbError := by
  fin_cases h <;> exact ⟨_, fun _ => rfl⟩

/-- Settles O33: a TRB that is no transfer, and a type that is none. -/
theorem transferRingTrbErrors : Obligations.TransferRingTrbErrors := by
  intro s sid e d hu he hd
  refine ⟨fun mk hmk t => ?_, fun b => runTrb_transferTrbError _ hu he hd⟩
  obtain ⟨f, hexec⟩ := exec_notTransfer hmk t
  rw [hexec, runTrb_transferTrbError f hu he hd]

/-! ### Lengths and residuals -/

/-- The transfer length as a number (R179). -/
theorem transferLength_toNat (t : Trb) : (transferLength t).toNat = t.status.toNat % 2 ^ 17 := by
  rw [transferLength, field_toNat, pow_zero, Nat.div_one]

/-- What is left of a transfer length fits the residual of a Transfer Event (R179, R240). -/
theorem residual_toNat {t : Trb} {n : Nat} (h : n ≤ (transferLength t).toNat) : (BitVec.ofNat 24 n).toNat = n := by
  have := (transferLength t).isLt
  exact Nat.mod_eq_of_lt (by omega)

/-- Short Packet where fewer bytes were moved than the length, else Success (R385, R387). -/
theorem lengthResult_code (len moved : Nat) :
    (lengthResult len (min moved len)).code.toNat = if moved < len then 13 else 1 := by
  rw [lengthResult, show len - min moved len = len - moved by omega]
  by_cases h : moved < len
  · rw [if_neg (by omega), if_pos h]
    rfl
  · rw [if_pos (by omega), if_neg h]
    rfl

/-- The residual is what is left of the length (R385, R387). -/
theorem lengthResult_residual (t : Trb) (moved : Nat) :
    (lengthResult (transferLength t).toNat (min moved (transferLength t).toNat)).residual.toNat
      = (transferLength t).toNat - moved := by
  rw [lengthResult, residual_toNat (Nat.sub_le _ _)]
  omega

/-- Cutting bytes to the smaller of their number and a length is cutting them to the length (R385, R387). -/
theorem take_min_length (bytes : List Byte) (len : Nat) : bytes.take (min bytes.length len) = bytes.take len := by
  rw [List.take_eq_take_iff]
  omega

/-! ### Control transfers and No Op -/

section
variable {t : Trb} {d : DeviceSlot} {resp : List Byte} {s s2 : State} (sid e : Nat)

/-- A device's answer to a Setup Stage becomes the pending control response (R386). -/
theorem setupStage_ok (h : s.callDevice (.handleControl d.dev (leBytes t.parameter 8)) = (.ok resp, s2)) :
    setupStage t sid e d s = (s2.setSlot sid (some { d with ctlResp := resp }), ⟨ccSuccess, 0⟩) := by
  rw [setupStage, h]

/-- A device that answers Err leaves its endpoint in Error, with residual 8 (R386, R392). -/
theorem setupStage_err (h : s.callDevice (.handleControl d.dev (leBytes t.parameter 8)) = (.err, s2)) :
    setupStage t sid e d s = deviceError sid e d 8 s2 := by
  rw [setupStage, h]

/-- A Data Stage with DIR = 0 empties the pending response (R387). -/
theorem dataStage_out (h : dirIn t = false) :
    dataStage t sid e d s = (s.setSlot sid (some { d with ctlResp := [] }), ⟨ccSuccess, 0⟩) :=
  if_neg (Bool.eq_false_iff.1 h)

/-- A Data Stage with DIR = 1 stores the pending response, cut to its length, and empties it (R387). -/
theorem dataStage_stored (h : dirIn t = true)
    (hw : s.memWrite t.parameter (d.ctlResp.take (transferLength t).toNat) = (true, s2)) :
    dataStage t sid e d s = (s2.setSlot sid (some { d with ctlResp := [] }),
      lengthResult (transferLength t).toNat (min d.ctlResp.length (transferLength t).toNat)) := by
  simp only [dataStage, h, if_true, take_min_length, hw]

/-- A Data Stage whose response cannot be stored keeps it, with Data Buffer Error (R387). -/
theorem dataStage_fault (h : dirIn t = true)
    (hw : s.memWrite t.parameter (d.ctlResp.take (transferLength t).toNat) = (false, s2)) :
    dataStage t sid e d s = (s2, ⟨ccDataBufferError, BitVec.ofNat 24 (transferLength t).toNat⟩) := by
  simp only [dataStage, h, if_true, take_min_length, hw, Bool.false_eq_true, if_false]

end

/-- Settles O35: a Setup Stage by the device's answer; the others answer Success at once. -/
theorem setupStatusAndNoOpRules : Obligations.SetupStatusAndNoOpRules := by
  intro s t sid e d hu he hd d1 s1
  refine ⟨fun ans s2 hcall => ?_, ?_, runTrb_transferTrb (x := ⟨ccSuccess, 0⟩) hu he hd rfl rfl rfl⟩
  · rw [← leBytes_eq] at hcall
    constructor
    · rintro resp rfl
      exact runTrb_transferTrb hu he hd (setupStage_ok (d := d1) sid e hcall) rfl rfl
    · rintro rfl
      exact runTrb_transferTrb hu he hd (setupStage_err (d := d1) sid e hcall) rfl rfl
  · rw [← setSlot_setSlot s sid (some d1)]
    exact runTrb_transferTrb (x := ⟨ccSuccess, 0⟩) hu he hd rfl rfl rfl

/-- Settles O36: by the direction, then by whether the write succeeds. -/
theorem dataStageRule : Obligations.DataStageRule := by
  intro s t sid e d hu he hd len d1 s1
  have hlen : (transferLength t).toNat = len := transferLength_toNat t
  rw [← hlen]
  refine ⟨fun hdir => ?_, fun hdir s2 => ⟨fun hw => ?_, fun hw => ?_⟩⟩
  · rw [← setSlot_setSlot s sid (some d1)]
    exact runTrb_transferTrb hu he hd (dataStage_out sid e hdir) rfl rfl
  · exact runTrb_transferTrb hu he hd (dataStage_stored (d := d1) sid e hdir hw) (lengthResult_code ..)
      (lengthResult_residual ..)
  · exact runTrb_transferTrb hu he hd (dataStage_fault (d := d1) sid e hdir hw) rfl (residual_toNat le_rfl)

/-! ### Normal -/

section
variable {t : Trb} {d : DeviceSlot} {data resp : List Byte} {s s3 s4 : State} (sid e : Nat)

/-- A device that answers Err leaves its endpoint in Error (R385, R392). -/
theorem normalDevice_err (h : s.callDevice (.handleTransfer d.dev e data) = (.err, s3)) :
    normalDevice t sid e d data s = deviceError sid e d (transferLength t).toNat s3 := by
  rw [normalDevice, h]

/-- An empty answer is Success (R385). -/
theorem normalDevice_empty (h : s.callDevice (.handleTransfer d.dev e data) = (.ok [], s3)) :
    normalDevice t sid e d data s = (s3, ⟨ccSuccess, 0⟩) := by
  rw [normalDevice, h]

/-- An answer with bytes counts up to the length; it is stored unless the data was immediate (R385). -/
theorem normalDevice_bytes (h : s.callDevice (.handleTransfer d.dev e data) = (.ok resp, s3)) (hne : resp ≠ []) :
    normalDevice t sid e d data s = if idt t then
        (s3, lengthResult (transferLength t).toNat (min resp.length (transferLength t).toNat))
      else if (s3.memWrite t.parameter (resp.take (transferLength t).toNat)).1 then
        ((s3.memWrite t.parameter (resp.take (transferLength t).toNat)).2,
          lengthResult (transferLength t).toNat (min resp.length (transferLength t).toNat))
      else ((s3.memWrite t.parameter (resp.take (transferLength t).toNat)).2,
        ⟨ccDataBufferError, BitVec.ofNat 24 (transferLength t).toNat⟩) := by
  cases resp with
  | nil => exact absurd rfl hne
  | cons b bs => simp only [normalDevice, h, take_min_length]

/-- Immediate data is the parameter's bytes, at most 8 of them (R385). -/
theorem normal_immediate (h : idt t = true) :
    normal t sid e d s = normalDevice t sid e d (leBytes t.parameter (min (transferLength t).toNat 8)) s := by
  rw [normal, if_pos h]

/-- Data that cannot be read is Data Buffer Error, with no call of the device (R385). -/
theorem normal_fault (h : idt t = false) (hr : s.memRead t.parameter (transferLength t).toNat = (none, s3)) :
    normal t sid e d s = (s3, ⟨ccDataBufferError, BitVec.ofNat 24 (transferLength t).toNat⟩) := by
  rw [normal, if_neg (Bool.eq_false_iff.1 h), hr]

/-- Data that is read is passed to the device (R385). -/
theorem normal_read (h : idt t = false) (hr : s.memRead t.parameter (transferLength t).toNat = (some data, s3)) :
    normal t sid e d s = normalDevice t sid e d data s3 := by
  rw [normal, if_neg (Bool.eq_false_iff.1 h), hr]

end

/-- Settles O34: by where the data comes from; once it is known, by the device's answer, and for an answer with bytes by
whether it is stored. -/
theorem normalTrbRule : Obligations.NormalTrbRule := by
  intro s t sid e d hu he hd len d1 s1 answered
  have hlen : (transferLength t).toNat = len := transferLength_toNat t
  have hanswered : ∀ data s2, normal t sid e d1 s1 = normalDevice t sid e d1 data s2 → answered data s2 := by
    intro data s2 hnormal ans s3 (hcall : s2.callDevice (.handleTransfer d1.dev e data) = (ans, s3))
    rw [← hlen]
    refine ⟨?_, ?_, ?_, ?_⟩
    · rintro rfl
      exact runTrb_transferTrb hu he hd (hnormal.trans (normalDevice_err sid e hcall)) rfl (residual_toNat le_rfl)
    · rintro rfl
      exact runTrb_transferTrb hu he hd (hnormal.trans (normalDevice_empty sid e hcall)) rfl rfl
    · rintro resp hne rfl (hidt : idt t = true)
      refine runTrb_transferTrb hu he hd ?_ (lengthResult_code ..) (lengthResult_residual ..)
      rw [hnormal, normalDevice_bytes sid e hcall hne, if_pos hidt]
    · rintro resp s4 hne rfl (hidt : idt t = false)
      have hbytes := hnormal.trans (normalDevice_bytes sid e hcall hne)
      simp only [hidt, Bool.false_eq_true, if_false] at hbytes
      constructor <;> intro hw <;> simp only [hw, Bool.false_eq_true, if_true, if_false] at hbytes
      · exact runTrb_transferTrb hu he hd hbytes (lengthResult_code ..) (lengthResult_residual ..)
      · exact runTrb_transferTrb hu he hd hbytes rfl (residual_toNat le_rfl)
  refine ⟨fun hidt => ?_, fun hidt read s2 hread => ?_⟩
  · rw [← leBytes_eq, ← hlen]
    exact hanswered _ _ (normal_immediate sid e hidt)
  · rw [← hlen] at hread ⊢
    constructor
    · rintro rfl
      exact runTrb_transferTrb hu he hd (normal_fault sid e hidt hread) rfl (residual_toNat le_rfl)
    · rintro data rfl
      exact hanswered data s2 (normal_read sid e hidt hread)

end Sys2Proof.Machine
end

section
/-! PROOFS. The device-address allocator (R406 to R408), and what attaches and detaches a device (R400 to R403). -/

namespace Sys2Proof.Machine

open Sys2Proof.Claims

/-! ### Addresses -/

/-- The bitmap of n addresses in which those below k are used (R408). -/
def usedBelow (n k : Nat) : List Bool := (List.range (n + 1)).map (fun j => decide (1 ≤ j ∧ j < k))

theorem usedBelow_getD {n k a : Nat} (h : 1 ≤ a) (hn : a ≤ n) : (usedBelow n k).getD a true = decide (a < k) := by
  rw [List.getD_eq_getElem?_getD, usedBelow, List.getElem?_map, List.getElem?_range (by omega)]
  simp [h]

/-- The bitmap with address k used too. -/
theorem usedBelow_set {n k : Nat} (h : 1 ≤ k) : (usedBelow n k).set k true = usedBelow n (k + 1) := by
  refine List.ext_getElem (by simp [usedBelow]) fun j _ _ => ?_
  simp only [usedBelow, List.getElem_set, List.getElem_map, List.getElem_range]
  by_cases hj : k = j
  · rw [if_pos hj, decide_eq_true (by omega)]
  · rw [if_neg hj, decide_eq_decide]
    omega

/-- The bitmap in which every address is used. -/
theorem usedBelow_all (n : Nat) : usedBelow n (n + 1) = (List.range (n + 1)).map (fun j => decide (1 ≤ j)) := by
  refine List.map_congr_left fun j hj => ?_
  have := List.mem_range.1 hj
  rw [decide_eq_decide]
  omega

/-- The k-th allocation from an empty bitmap answers k (R408). -/
theorem allocateAddress_usedBelow {s : State} {k : Nat} (hpos : 1 ≤ k) (hmax : k ≤ s.cfg.numAddr)
    (hused : s.addrUsed = usedBelow s.cfg.numAddr k) :
    s.allocateAddress = some (k, { s with addrUsed := usedBelow s.cfg.numAddr (k + 1) }) := by
  rw [allocateAddress_eq_some hpos hmax, hused, usedBelow_set hpos]
  · rw [hused, usedBelow_getD hpos hmax, decide_eq_false_iff_not]
    exact lt_irrefl k
  · intro b hb hlt
    rw [hused, usedBelow_getD hb (by omega), decide_eq_true hlt]

/-- With every address used, the one freed is the next one allocated (R408). -/
theorem allocateAddress_freeAddress {s : State} {a : Nat} (hpos : 1 ≤ a) (hmax : a ≤ s.cfg.numAddr)
    (hlen : a < s.addrUsed.length) (hused : ∀ b, 1 ≤ b → b ≤ s.cfg.numAddr → s.addrUsed.getD b true = true) :
    ∃ t, (s.freeAddress a).allocateAddress = some (a, t) := by
  rw [State.freeAddress, if_pos ⟨hpos, hmax⟩]
  refine ⟨_, allocateAddress_eq_some hpos hmax ?_ fun b hb hlt => ?_⟩
  · simp [hlen]
  · rw [List.getD_eq_getElem?_getD, List.getElem?_set_ne (by omega), ← List.getD_eq_getElem?_getD,
      hused b hb (by omega)]

/-- Settles O11: by whether an address is free; then the bitmap after k - 1 allocations, and after all of them. -/
theorem addressAllocator : Obligations.AddressAllocator := by
  intro s
  refine ⟨fun a => allocateAddress_eq_some, allocateAddress_eq_none, fun a hpos hmax => if_pos ⟨hpos, hmax⟩,
    fun a ha => if_neg (by omega), fun k hpos hmax hused => ?_, fun hused => ?_⟩
  · exact ⟨_, allocateAddress_usedBelow hpos hmax hused, rfl⟩
  · rw [← usedBelow_all] at hused
    have hall : ∀ b, 1 ≤ b → b ≤ s.cfg.numAddr → s.addrUsed.getD b true = true := by
      intro b hb hmax
      rw [hused, usedBelow_getD hb hmax, decide_eq_true (by omega)]
    have hlen : s.addrUsed.length = s.cfg.numAddr + 1 := by simp [hused, usedBelow]
    exact ⟨allocateAddress_eq_none hall,
      fun a hpos hmax => allocateAddress_freeAddress hpos hmax (by omega) hall⟩

/-! ### Attach -/

/-- The lowest free slot index (R400). -/
theorem freeSlot_eq_some {s : State} {sid : Nat} (hpos : 1 ≤ sid) (hmax : sid ≤ s.cfg.maxSlots)
    (hfree : s.slotTab.getD sid none = none) (hlowest : ∀ j, 1 ≤ j → j < sid → s.slotTab.getD j none ≠ none) :
    s.freeSlot? = some sid := by
  rw [State.freeSlot?, List.find?_range'_eq_some]
  refine ⟨by rw [hfree]; rfl, List.mem_range'_1.2 ⟨hpos, by omega⟩, fun j hj hlt => ?_⟩
  rw [Bool.not_eq_true', Option.isNone_eq_false_iff, Option.isSome_iff_ne_none]
  exact hlowest j hj hlt

/-- No slot index is free (R400). -/
theorem freeSlot_eq_none {s : State} (h : ∀ j, 1 ≤ j → j ≤ s.cfg.maxSlots → s.slotTab.getD j none ≠ none) :
    s.freeSlot? = none := by
  rw [State.freeSlot?, List.find?_eq_none]
  intro j hj
  obtain ⟨hpos, hmax⟩ := List.mem_range'_1.1 hj
  rw [Option.isNone_iff_eq_none]
  exact h j hpos (by omega)

/-- The port bits an attach at a speed changes (R162, R400). -/
theorem portAttach_eq (q : Port) (sp : Speed) (sid : Nat) :
    q.attach sp sid = { q with
      ccs := true, csc := true, slot := some sid
      speed := match sp with | .full => 1 | .high => 3 | .super => 4
      ped := match sp with | .super => true | .full | .high => false
      pls := match sp with | .super => 0 | .full | .high => 7 } := by
  cases sp <;> rfl

/-- Settles O40: by whether the port can take a device, then by whether a slot index is free. -/
theorem attachRule : Obligations.AttachRule := by
  intro s p dev
  refine ⟨fun hport => ?_, fun hp hccs => ?_⟩
  · rw [exec, execAttach, if_pos hport]
  · have hport : ¬ (s.cfg.maxPorts ≤ p ∨ (s.port p).ccs = true) := by
      rw [not_or, Nat.not_le, Bool.not_eq_true]
      exact ⟨hp, hccs⟩
    rw [exec, execAttach, if_neg hport]
    refine ⟨fun hused => ?_, fun sid sp s1 hpos hmax hfree hlowest hcall => ?_⟩
    · rw [freeSlot_eq_none hused]
    · obtain ⟨dr, hs1⟩ := callSpeed_spec s dev
      rw [hcall] at hs1
      obtain rfl : s1 = _ := hs1
      simp only [freeSlot_eq_some hpos hmax hfree hlowest, hcall, portChange_eq, portAttach_eq]
      rfl

/-! ### Detach -/

/-- Settles O41: by whether the slot is present. -/
theorem detachRule : Obligations.DetachRule := by
  intro s sid
  refine ⟨fun hd => ?_, fun d hd => ?_⟩
  · rw [exec, execDetach, hd]
  · simp only [exec, execDetach, hd, freeSlotAddress_eq, portChange_eq]
    rfl

end Sys2Proof.Machine
end

section
/-! PROOFS. Which instructions call a device, at most once each (R370). -/

namespace Sys2Proof.Machine

open Sys2Proof.Claims

/-! ### Calls and their callers -/

/-- The device calls an instruction can make (R342, R385, R386, R400). -/
inductive Caller : Instr → DevCall → Prop where
  | attach (p dev : Nat) : Caller (.attach p dev) (.speed dev)
  | resetDevice (x : Trb) (dev : Nat) : Caller (.resetDevice x) (.reset dev)
  | setupStage (x : Trb) (dev : Nat) (req : List Byte) : Caller (.setupStage x) (.handleControl dev req)
  | normal (x : Trb) (dev ep : Nat) (data : List Byte) : Caller (.normal x) (.handleTransfer dev ep data)

/-- The recorded calls after an instruction: those before it, and at most one call of its own (R370). -/
inductive Calls (i : Instr) (cs : List DevCall) : List DevCall → Prop where
  | none : Calls i cs cs
  | one {c : DevCall} (h : Caller i c) : Calls i cs (cs ++ [c])

/-- An instruction that leaves the recorded calls makes none. -/
theorem Calls.of_eq {i : Instr} {cs cs' : List DevCall} (h : cs' = cs) : Calls i cs cs' := h ▸ .none

section
variable {i : Instr} {s t : State} {f : State → State × CmdResult}
  {g : Nat → Nat → DeviceSlot → State → State × XferResult}

/-- Besides ATTACH, only a consumed TRB can call a device. -/
theorem Effect.calls_eq (h : Effect s i t) (ht : isTrb i = false) (ha : ∀ p dev, i ≠ .attach p dev) :
    t.calls = s.calls := by
  cases h with
  | attach p dev => exact absurd rfl (ha p dev)
  | slotCommand hi | transfer hi => exact absurd (hi.symm.trans ht) (by decide)
  | _ => rfl

theorem callSpeed_calls (s : State) (dev : Nat) : (s.callSpeed dev).2.calls = s.calls ++ [.speed dev] := by
  obtain ⟨dr, h⟩ := callSpeed_spec s dev
  rw [h]

theorem portChange_calls (s : State) (p : Nat) : (s.portChange p).calls = s.calls := by
  obtain ⟨es, is, eint, h, -⟩ := portChange_spec s p
  rw [h]

/-- ATTACH asks the speed once, unless it is refused (R400). -/
theorem execAttach_calls {p dev : Nat} (h : execAttach p dev s = .next t) : Calls (.attach p dev) s.calls t.calls := by
  unfold execAttach at h
  split at h
  · cases h; exact .none
  · split at h
    · cases h; exact .none
    · obtain rfl := Host.Outcome.next.inj h
      change Calls _ _ (State.portChange _ p).calls
      rw [portChange_calls, State.modifyPort_calls]
      change Calls _ _ (s.callSpeed dev).2.calls
      rw [callSpeed_calls]
      exact .one (.attach p dev)

/-! ### Consumed TRBs -/

/-- The execution of a consumed TRB makes the calls of its meaning on its ring (R320, R374). -/
theorem runTrb_calls (hf : ∀ s, Calls i s.calls (f s).1.calls)
    (hg : ∀ sid e d s, Calls i s.calls (g sid e d s).1.calls) (h : s.runTrb f g = .next t) :
    Calls i s.calls t.calls := by
  rcases runTrb_spec s t f g h with ⟨-, r, b, rfl⟩ | ⟨sid, e, d, -, -, r, b, rfl⟩
  · exact hf { s with cmdRing := s.cmdRing.advance }
  · exact hg sid e _ (s.setSlot sid _)

/-- A transfer TRB calls no device on the command ring (R346). -/
theorem runTrb_transfer_calls {slot : BitVec 8} (hg : ∀ sid e d s, Calls i s.calls (g sid e d s).1.calls)
    (h : s.runTrb (commandTrbError slot) g = .next t) : Calls i s.calls t.calls :=
  runTrb_calls (fun _ => .none) hg h

/-- A command TRB calls no device on a transfer ring (R391). -/
theorem runTrb_command_calls (hf : ∀ s, Calls i s.calls (f s).1.calls)
    (h : s.runTrb f transferTrbError = .next t) : Calls i s.calls t.calls :=
  runTrb_calls hf (fun _ _ _ _ => .none) h

/-- A command of a slot makes the calls of its meaning on the slot it names (R321). -/
theorem slotCommand_calls (x : Trb) {handle : Nat → DeviceSlot → State → State × BitVec 8 × BitVec 24}
    (hc : ∀ sid d s, Calls i s.calls (handle sid d s).1.calls) (s : State) :
    Calls i s.calls (slotCommand x handle s).1.calls := by
  unfold slotCommand
  split
  · exact .none
  · exact hc _ _ s

end

/-! ### The commands -/

theorem freeSlotAddress_calls (s : State) (d : DeviceSlot) : (s.freeSlotAddress d).calls = s.calls := by
  rw [freeSlotAddress_eq]

theorem endpointCommand_calls (x : Trb) (f : Nat → DeviceSlot → DeviceSlot) (sid : Nat) (d : DeviceSlot)
    (s : State) : (endpointCommand x f sid d s).1.calls = s.calls := by
  unfold endpointCommand
  split <;> rfl

theorem enableSlot_calls (s : State) : (enableSlot s).1.calls = s.calls := by
  unfold enableSlot
  split
  · rfl
  · split <;> rfl

theorem disableSlot_calls (sid : Nat) (d : DeviceSlot) (s : State) : (disableSlot sid d s).1.calls = s.calls := by
  unfold disableSlot
  split
  · rfl
  · exact freeSlotAddress_calls s d

theorem addressDevice_calls (sid : Nat) (d : DeviceSlot) (s : State) : (addressDevice sid d s).1.calls = s.calls := by
  unfold addressDevice
  split
  · rfl
  · split
    · rfl
    · next a s1 ha =>
      obtain ⟨-, -, -, -, rfl⟩ := allocateAddress_spec s s1 a ha
      rfl

/-- Reset Device resets the device once, unless the slot is Disabled (R342). -/
theorem resetDevice_calls (x : Trb) (sid : Nat) (d : DeviceSlot) (s : State) :
    Calls (.resetDevice x) s.calls (resetDevice sid d s).1.calls := by
  unfold resetDevice
  split
  · exact .none
  · rw [State.setSlot_calls, freeSlotAddress_calls, State.callReset_calls]
    exact .one (.resetDevice x d.dev)

/-! ### The transfers -/

theorem memRead_calls (s : State) (a : Addr) (n : Nat) : (s.memRead a n).2.calls = s.calls := by
  obtain ⟨dr, h, -⟩ := memRead_spec s a n
  rw [h]

theorem memWrite_calls (s : State) (a : Addr) (bs : List Byte) : (s.memWrite a bs).2.calls = s.calls := by
  obtain ⟨dr, h | h⟩ := memWrite_spec s a bs <;> rw [h]

theorem callDevice_calls (s : State) (c : DevCall) : (s.callDevice c).2.calls = s.calls ++ [c] := by
  obtain ⟨dr, h⟩ := callDevice_spec s c
  rw [h]

/-- A Normal TRB whose data is known calls `handle_transfer` once (R385). -/
theorem normalDevice_calls (x : Trb) (sid e : Nat) (d : DeviceSlot) (data : List Byte) (s : State) :
    (normalDevice x sid e d data s).1.calls = s.calls ++ [.handleTransfer d.dev e data] := by
  rw [← callDevice_calls]
  unfold normalDevice
  dsimp only
  split
  · rfl
  · rfl
  · split
    · rfl
    · split <;> exact memWrite_calls _ _ _

/-- A Normal TRB calls `handle_transfer` once, unless its data cannot be read (R385). -/
theorem normal_calls (x : Trb) (sid e : Nat) (d : DeviceSlot) (s : State) :
    Calls (.normal x) s.calls (normal x sid e d s).1.calls := by
  unfold normal
  split
  · rw [normalDevice_calls]
    exact .one (.normal x d.dev e _)
  · rw [← memRead_calls s x.parameter (transferLength x).toNat]
    dsimp only
    split
    · exact .none
    · rw [normalDevice_calls]
      exact .one (.normal x d.dev e _)

/-- A Setup Stage TRB calls `handle_control` once (R386). -/
theorem setupStage_calls (x : Trb) (sid e : Nat) (d : DeviceSlot) (s : State) :
    Calls (.setupStage x) s.calls (setupStage x sid e d s).1.calls := by
  have hcalls : (setupStage x sid e d s).1.calls = s.calls ++ [.handleControl d.dev (leBytes x.parameter 8)] := by
    rw [← callDevice_calls]
    unfold setupStage
    dsimp only
    split <;> rfl
  rw [hcalls]
  exact .one (.setupStage x d.dev _)

theorem dataStage_calls (x : Trb) (sid e : Nat) (d : DeviceSlot) (s : State) :
    (dataStage x sid e d s).1.calls = s.calls := by
  unfold dataStage
  dsimp only
  split
  · split <;> exact memWrite_calls _ _ _
  · rfl

/-! ### Every instruction -/

/-- A consumed TRB makes at most one call, of its own kind (R370). -/
theorem exec_trb_calls {i : Instr} {s t : State} (ht : isTrb i = true) (h : exec i s = .next t) :
    Calls i s.calls t.calls := by
  cases i
  case normal x => exact runTrb_transfer_calls (normal_calls x) h
  case setupStage x => exact runTrb_transfer_calls (setupStage_calls x) h
  case dataStage x => exact runTrb_transfer_calls (fun sid e d s => .of_eq (dataStage_calls x sid e d s)) h
  case statusStage => exact runTrb_transfer_calls (fun _ _ _ _ => .none) h
  case noop => exact runTrb_transfer_calls (fun _ _ _ _ => .none) h
  case enableSlot => exact runTrb_command_calls (fun s => .of_eq (enableSlot_calls s)) h
  case disableSlot x =>
    exact runTrb_command_calls (slotCommand_calls x fun sid d s => .of_eq (disableSlot_calls sid d s)) h
  case addressDevice x =>
    exact runTrb_command_calls (slotCommand_calls x fun sid d s => .of_eq (addressDevice_calls sid d s)) h
  case configureEndpoint x => exact runTrb_command_calls (slotCommand_calls x fun _ _ _ => .none) h
  case evaluateContext x => exact runTrb_command_calls (slotCommand_calls x fun _ _ _ => .none) h
  case resetEndpoint x | stopEndpoint x | setTrDequeuePointer x =>
    exact runTrb_command_calls
      (slotCommand_calls x fun sid d s => .of_eq (endpointCommand_calls x _ sid d s)) h
  case resetDevice x => exact runTrb_command_calls (slotCommand_calls x (resetDevice_calls x)) h
  case noopCommand => exact runTrb_command_calls (fun _ => .none) h
  case isoch | link | eventData | forceEvent | negotiateBandwidth | setLatencyToleranceValue | getPortBandwidth
    | forceHeader | transferEvent | commandCompletionEvent | portStatusChangeEvent | bandwidthRequestEvent
    | doorbellEvent | hostControllerEvent | deviceNotificationEvent | mfindexWrapEvent | malformedTrb =>
    exact runTrb_command_calls (f := commandTrbError _) (fun _ => .none) h
  all_goals cases ht

/-- Every instruction makes at most one call, of its own kind (R370). -/
theorem exec_calls {i : Instr} {s t : State} (h : exec i s = .next t) : Calls i s.calls t.calls := by
  by_cases ht : isTrb i = true
  · exact exec_trb_calls ht h
  · by_cases ha : ∃ p dev, i = .attach p dev
    · obtain ⟨p, dev, rfl⟩ := ha
      exact execAttach_calls h
    · by_cases hr : isReset i = true
      · obtain ⟨r, rfl⟩ := exec_reset hr h
        exact .none
      · have heffect := exec_effect (Bool.eq_false_iff.2 hr) h
        exact .of_eq (heffect.calls_eq (Bool.eq_false_iff.2 ht) fun p dev hi => ha ⟨p, dev, hi⟩)

/-- Settles O53: by the call an instruction makes, if it makes one. -/
theorem deviceCallsHaveTheirCallers : Obligations.DeviceCallsHaveTheirCallers := by
  intro i s t h
  generalize t.calls = cs, exec_calls h = hcalls
  cases hcalls with
  | none => exact .inl rfl
  | @one c hc =>
    refine .inr ⟨c, rfl, ?_⟩
    cases hc with
    | attach p dev => exact .inl ⟨p, dev, rfl, rfl⟩
    | resetDevice x dev => exact .inr (.inl ⟨x, dev, rfl, rfl⟩)
    | setupStage x dev req => exact .inr (.inr (.inl ⟨x, dev, req, rfl, rfl⟩))
    | normal x dev ep data => exact .inr (.inr (.inr ⟨x, dev, ep, data, rfl, rfl⟩))

end Sys2Proof.Machine
end

section
/-! PROOFS. Nothing stops the controller (R420): every instruction a step fetches answers a next state. -/

namespace Sys2Proof.Machine

open Sys2Proof.Claims

/-- An access to the window answers a next state, whatever it reaches (R82, R84, R420). -/
theorem exec_access_next (c : Config) (s : State) (a : MmioAccess) : ∃ t, exec (instrOfAccess c a) s = .next t := by
  cases hd : a.isWrite with
  | true =>
    obtain ⟨t, h, -⟩ := exec_access_write c s hd
    exact ⟨t, h⟩
  | false =>
    obtain ⟨dr, x, -, h⟩ := exec_access_read c s hd
    exact ⟨_, h⟩

/-- A host operation answers a next state, also where it is rejected (R410, R420). -/
theorem exec_host_next (op : HostOp) (s : State) : ∃ t, exec (instrOfHost op) s = .next t := by
  cases op with
  | cmd b => exact ⟨_, rfl⟩
  | xfer sid e b =>
    simp only [instrOfHost, exec, execXfer]
    split
    · exact ⟨_, rfl⟩
    · split <;> exact ⟨_, rfl⟩
  | xinit sid e base size =>
    simp only [instrOfHost, exec, execXinit]
    split
    · exact ⟨_, rfl⟩
    · split
      · split <;> exact ⟨_, rfl⟩
      · exact ⟨_, rfl⟩
  | evt n =>
    simp only [instrOfHost, exec, execEvt]
    split <;> exact ⟨_, rfl⟩
  | attach port dev =>
    simp only [instrOfHost, exec, execAttach]
    split
    · exact ⟨_, rfl⟩
    · split <;> exact ⟨_, rfl⟩
  | detach sid =>
    simp only [instrOfHost, exec, execDetach]
    split <;> exact ⟨_, rfl⟩

/-- A TRB ready to be executed answers a next state: the one fault, an absent Device Slot, is ruled out (R374, R420;
log 17). -/
theorem State.Ready.exec_next {s : State} {i : Instr} (h : s.Ready i) (ht : isTrb i = true) :
    ∃ t, exec i s = .next t := by
  refine exec_trb_next ht fun sid e hu => ?_
  obtain ⟨d, hd, -⟩ := h ht sid e hu
  exact ⟨d, hd⟩

/-- Every instruction a step fetches answers a next state in the state it is fetched for (R420). -/
theorem Fetches.exec_next {s s1 : State} {src : Source} {i : Instr} (h : Fetches s src i s1) :
    ∃ t, exec i s1 = .next t := by
  have hready := h.ready
  cases h with
  | locked | task => exact hready.exec_next (isTrb_instrOfRaw _)
  | access | high => exact exec_access_next _ _ _
  | host op => exact exec_host_next op _

/-- Settles O44: a step that fetches nothing is quiet, and a fetched instruction answers a next state. -/
theorem everyStepAnswersANextState : Obligations.EveryStepAnswersANextState := by
  intro s
  cases hf : fetch s with
  | none => exact ⟨_, step_of_no_fetch hf⟩
  | some fetched =>
    obtain ⟨src, i, s1⟩ := fetched
    obtain ⟨t, ht⟩ := (fetch_spec hf).exec_next
    exact ⟨settle src t, (step_of_fetch hf).trans (congrArg (mapNext _) ht)⟩

end Sys2Proof.Machine
end

section
/-! PROOFS. The state after construction meets every invariant (R460, R464), and where no access is in progress no draining
flag is set (R52, R472). -/

namespace Sys2Proof.Machine

/-! ### The tables after construction -/

/-- No entry of the slot table is a Device Slot after construction (R45, R460). -/
@[simp] theorem construct_entry (c : Config) (sid : Nat) : (State.construct c).entry sid = none :=
  getD_of_forall (p := fun o => o = none) (fun _ ho => List.eq_of_mem_replicate ho) rfl sid

/-- The slot table holds no Device Slot after construction (R45, R460). -/
theorem construct_no_slot {c : Config} {o : Option DeviceSlot} {d : DeviceSlot} (ho : o ∈ (State.construct c).slotTab) :
    d ∉ o := by
  rw [List.eq_of_mem_replicate ho]
  nofun

/-- No entry has an address after construction (R47, R460). -/
@[simp] theorem construct_addressAt (c : Config) (sid : Nat) : (State.construct c).addressAt sid = 0 := by
  rw [addressAt_eq, construct_entry]
  rfl

/-- No address is marked after construction (R49, R460). -/
theorem construct_addrUsed (c : Config) (a : Nat) : (State.construct c).addrUsed.getD a false = false :=
  getD_of_forall (p := fun b => b = false) (fun _ hb => List.eq_of_mem_replicate hb) rfl a

/-- Every port is unattached after construction (R35, R460). -/
@[simp] theorem construct_port (c : Config) (p : Nat) : (State.construct c).port p = Port.fresh :=
  getD_of_forall (p := fun q => q = Port.fresh) (fun _ hq => List.eq_of_mem_replicate hq) rfl p

/-! ### The invariants after construction -/

theorem construct_shape {c : Config} (hc : c.ok = true) : (State.construct c).Shape := by
  refine ⟨hc, List.length_replicate, List.length_replicate, List.length_replicate, List.length_replicate,
    List.length_replicate, List.length_replicate, construct_entry c 0, construct_addrUsed c 0, fresh_ok, ?_, ?_⟩
  · intro e he
    rw [List.eq_of_mem_replicate he]
    exact eventFresh_ok
  · exact fun o ho d hd => absurd hd (construct_no_slot ho)

theorem construct_addresses (c : Config) : (State.construct c).AddressesOk := by
  refine ⟨fun a _ => ?_, fun i _ j _ _ hne => absurd (construct_addressAt c i) hne,
    fun o ho d hd => absurd hd (construct_no_slot ho)⟩
  rw [construct_addrUsed]
  exact ⟨nofun, fun ⟨hne, i, _, hi⟩ => absurd (hi.symm.trans (construct_addressAt c i)) hne⟩

theorem portFresh_ok : Port.fresh.ok := by decide

theorem construct_ports (c : Config) : (State.construct c).PortsOk := by
  refine ⟨fun q hq => ?_, fun p _ sid hsid => ?_, fun sid _ d hd => ?_⟩
  · rw [List.eq_of_mem_replicate hq]
    exact portFresh_ok
  · rw [construct_port] at hsid
    cases hsid
  · rw [construct_entry] at hd
    cases hd

theorem construct_run (c : Config) : (State.construct c).RunOk :=
  ⟨⟨nofun, nofun⟩, rfl, rfl, nofun⟩

theorem eventFresh_untouched : EventRing.fresh.untouched := by decide

theorem construct_onlyInterrupterZero (c : Config) : (State.construct c).OnlyInterrupterZero := by
  refine ⟨fun i hi => ?_, fun e he => ?_⟩
  · rw [List.eq_of_mem_replicate (List.mem_of_mem_tail hi)]
    exact ⟨rfl, rfl⟩
  · rw [List.eq_of_mem_replicate (List.mem_of_mem_tail he)]
    exact eventFresh_untouched

theorem construct_accesses (c : Config) : (State.construct c).AccessesOk := by
  refine ⟨rfl, nofun, nofun, fun sid _ d hd => ?_⟩
  rw [construct_entry] at hd
  cases hd

/-- Construction at a sound configuration meets every invariant (R460, R464; logs 22, 24, 26). -/
theorem construct_safe {c : Config} (hc : c.ok = true) : (State.construct c).Safe where
  shape := construct_shape hc
  memory := wf_nil
  addresses := construct_addresses c
  ports := construct_ports c
  run := construct_run c
  interrupters := construct_onlyInterrupterZero c
  accesses := construct_accesses c

/-! ### Quiescence -/

/-- With no access in progress no draining flag is set: a set flag would be that of an access in progress (R52, R472). -/
theorem quiescent_of_no_access {s : State} (ha : s.AccessesOk) (hlocked : s.locked = none) (htasks : s.tasks = []) :
    s.Quiescent := by
  obtain ⟨hcont, -, -, hflags⟩ := (accessesOk_iff s).1 ha
  refine ⟨hlocked, htasks, hcont, fun o ho d hd b hb => ?_⟩
  obtain ⟨sid, hsid⟩ := List.getElem?_of_mem ho
  obtain ⟨e, he⟩ := List.getElem?_of_mem hb
  have hentry : s.entry sid = some d := by
    rw [State.entry, List.getD_eq_getElem?_getD, hsid]
    exact hd
  have hflag : d.isDraining e = b := by rw [DeviceSlot.isDraining, List.getD_eq_getElem?_getD, he]; rfl
  cases b with
  | false => rfl
  | true =>
    obtain ⟨t, ht, -⟩ := hflags sid d e hentry hflag
    rw [htasks] at ht
    cases ht

/-- Settles O59: construction meets each invariant by its lemma, and has no access in progress. -/
theorem constructionIsSafe : Obligations.ConstructionIsSafe :=
  ⟨fun c hc => ⟨construct_safe hc, quiescent_of_no_access (construct_accesses c) rfl rfl⟩, by decide, rfl,
    fun _ => quiescent_of_no_access⟩

end Sys2Proof.Machine
end
